-- ==== Sys2Proof/Word.lean ====
section
/-! DEFINITION. The word, the byte and the operand width of the Cupana System (00_scope.md R6, R8). -/

namespace Sys2Proof

/-- A register, an address, a literal: 16 bits (00_scope.md R6, `XLEN` and `ALEN`). -/
abbrev Word := BitVec 16

/-- One addressable unit of memory: 8 bits (00_scope.md R6). -/
abbrev Byte := BitVec 8

/-- The operand width an instruction's B bit selects (00_scope.md R8, `W`): a word for B = 0, a byte for B = 1. -/
inductive Width where
  | word
  | byte
  deriving DecidableEq, Repr

end Sys2Proof
end

