-- ==== Sys2Proof/Config.lean ====
section
/-! DEFINITION. What the spec leaves open, as constants without a body: no proof can see their values, so every theorem
holds for every value of them (00_scope.md R6, the parameters marked OPEN; 93_implementation_defined.md U8 to U11). -/

namespace Sys2Proof

/-- One access of the processor to a byte of the device region, as the devices see it (20_memory.md R35, R41). -/
inductive DevEvent where
  /-- `Dev.read(a)`: a byte of the region was read. -/
  | read (a : Word)
  /-- `Dev.write(a, b)`: byte `b` was written to address `a`. -/
  | write (a : Word) (b : Byte)
  deriving DecidableEq, Repr

namespace Config

/-- `IRQ_VECTOR`, the address of the interrupt handler's first instruction (60_exceptions.md R147).
OPEN in the spec; log entry 7. -/
opaque irqVector : Word

/-- `ROM_IMAGE`, the bytes of the ROM wherever the state lists none (20_memory.md R33). OPEN in the spec; log entry 3. -/
opaque romImage : Word → Byte

/-- What a byte of RAM that nothing has written holds (10_state.md R23, R24; 93_implementation_defined.md U8): a free
value, one for each address, since a RAM read is idempotent (20_memory.md R34). DESIGN CHOICE, log entry 2. -/
opaque ramInit : Word → Byte

/-- `Dev.read`: the byte the devices answer to a read of an address, given every access made to them before it
(20_memory.md R35: any byte, possibly different at each read). OPEN in the spec; log entry 4. -/
opaque devRead : List DevEvent → Word → Byte

end Config

end Sys2Proof
end

