-- ==== Sys2Proof/Machine/State.lean ====
section
/-! DEFINITION. The machine's state as plain data, its reset value, and the reasons a step can stop. -/

namespace Sys2Proof.Machine

/-- The stored bytes of ROM and RAM: (address, byte) pairs, addresses strictly rising, all below the device region. An
address that is not listed has no byte of the machine's own here; `unlisted` (Ops.lean) says what reading it gives.
Log entries 2 and 3. -/
abbrev Memory := List Host.Cell

/-- The six named flags of FLAGS (10_state.md R16). -/
inductive Flag where
  /-- Zero. -/
  | z
  /-- Carry. -/
  | c
  /-- Negative. -/
  | n
  /-- Interrupt Disabled. -/
  | id
  /-- Interrupt Pending. -/
  | ip
  /-- Halt. -/
  | h
  deriving DecidableEq, Repr

/-- The three regions of the address space (20_memory.md R31). -/
inductive Region where
  | rom
  | ram
  | devices
  deriving DecidableEq, Repr

/-- The whole state of the machine (10_state.md, opening paragraph; 70_reset_and_hazards.md R165). -/
structure State where
  /-- R0 to R15; index 14 is the PC, index 15 the SP (10_state.md R10, R12). -/
  regs : Vector Word 16
  /-- FLAGS (10_state.md R16, R17); log entry 12. -/
  flags : Byte
  /-- ROM and RAM (20_memory.md R33, R34). -/
  mem : Memory
  /-- Every access made to the device region so far, oldest first (20_memory.md R35, R41); log entry 5. -/
  devLog : List DevEvent
  /-- The MODEL's own field: what the environment does at each coming step boundary, `true` where it performs `IP <- 1`
  (60_exceptions.md R144); past the list's end it does nothing. Log entry 6. -/
  requests : List Bool
  deriving DecidableEq, Repr

/-- The faults (60_exceptions.md R142). A faulting step has no successor state (R141). -/
inductive Fault where
  /-- Raised by fetch and decode: a first byte that begins no form, or a Reg byte of 16 to 255 (30_encoding.md R60); also
  by `exec` of an ill-formed term, which no decoding gives. Safe: the machine stops. -/
  | illegalInstruction
  /-- Raised by DIV and MOD with a second operand of 0 (42_arithmetic.md R88, R89). Safe: the machine stops. -/
  | divideByZero
  /-- Raised by MOV with I = 1, PHR, JSB and interrupt entry when a write would touch the ROM (20_memory.md R37).
  Safe: the machine stops. -/
  | romWrite
  deriving DecidableEq, Repr

/-- The refusals. -/
inductive Refusal where
  /-- Raised by `exec` for an instruction that has no meaning yet. Safe. No arm raises it: every instruction has its
  meaning. -/
  | notModelled (mnemonic : String)
  deriving DecidableEq, Repr

/-- The machine right after reset (10_state.md R23; 70_reset_and_hazards.md R160): PC = 0x0000 and FLAGS = 0x00, as the
spec says. R0 to R13 and SP are unspecified there and 0 here: DESIGN CHOICE, unsafe, log entry 1. No ROM or RAM byte is
listed (log entries 2 and 3), no device access has been made and no request is scheduled (log entries 5 and 6). -/
def State.reset : State where
  regs := Vector.replicate 16 0
  flags := 0
  mem := []
  devLog := []
  requests := []

end Sys2Proof.Machine
end

