-- ==== Sys2Proof/Syntax.lean ====
section
/-! DEFINITION. The instructions: one constructor for each of the 73 forms of the form table (30_encoding.md R59), in its
order. A constructor's name is the mnemonic, then `B` for a byte form (B = 1), `Ind` for an indirect first argument
(I = 1), and the format of R54: `R`, `RR`, `L`, `RL`, nothing for format N. -/

namespace Sys2Proof

/-- A register of the machine, R0 to R15 (10_state.md R10, R12). -/
abbrev Reg := Fin 16

/-- R14, the program counter (10_state.md R12). -/
abbrev Reg.pc : Reg := 14

/-- R15, the stack pointer (10_state.md R12). -/
abbrev Reg.sp : Reg := 15

/-- A Reg field as the instruction holds it: one byte, whose values 16 to 255 name no register (10_state.md R11). -/
abbrev RegField := Byte

/-- The Reg field that names a register (30_encoding.md R55). -/
def Reg.field (r : Reg) : RegField := BitVec.ofNat 8 r.val

/-- The 73 admitted forms (30_encoding.md R59). `r1` is ARG 1's Reg field, `r2` ARG 2's, `k` a literal. -/
inductive Instr where
  /-- Row 1: `NOP` (R70). -/
  | nop
  /-- Row 2: `HLT` (R71). -/
  | hlt
  /-- Row 3: `MOV Rd, Rs` (R75). -/
  | movRR (r1 : RegField) (r2 : RegField)
  /-- Row 4: `MOV Rd, #k` (R75). -/
  | movRL (r1 : RegField) (k : Word)
  /-- Row 5: `MOV.B Rd, Rs` (R75). -/
  | movBRR (r1 : RegField) (r2 : RegField)
  /-- Row 6: `MOV.B Rd, #k` (R75). -/
  | movBRL (r1 : RegField) (k : Word)
  /-- Row 7: `MOV Rd*, Rs` (R76). -/
  | movIndRR (r1 : RegField) (r2 : RegField)
  /-- Row 8: `MOV Rd*, #k` (R76). -/
  | movIndRL (r1 : RegField) (k : Word)
  /-- Row 9: `MOV.B Rd*, Rs` (R76). -/
  | movBIndRR (r1 : RegField) (r2 : RegField)
  /-- Row 10: `MOV.B Rd*, #k` (R76). -/
  | movBIndRL (r1 : RegField) (k : Word)
  /-- Row 11: `PHR Rd` (R80). -/
  | phrR (r1 : RegField)
  /-- Row 12: `PLR Rd` (R81). -/
  | plrR (r1 : RegField)
  /-- Row 13: `ADD Rd, Rs` (R85). -/
  | addRR (r1 : RegField) (r2 : RegField)
  /-- Row 14: `ADD Rd, #k` (R85). -/
  | addRL (r1 : RegField) (k : Word)
  /-- Row 15: `ADD.B Rd, Rs` (R85). -/
  | addBRR (r1 : RegField) (r2 : RegField)
  /-- Row 16: `ADD.B Rd, #k` (R85). -/
  | addBRL (r1 : RegField) (k : Word)
  /-- Row 17: `SUB Rd, Rs` (R86). -/
  | subRR (r1 : RegField) (r2 : RegField)
  /-- Row 18: `SUB Rd, #k` (R86). -/
  | subRL (r1 : RegField) (k : Word)
  /-- Row 19: `SUB.B Rd, Rs` (R86). -/
  | subBRR (r1 : RegField) (r2 : RegField)
  /-- Row 20: `SUB.B Rd, #k` (R86). -/
  | subBRL (r1 : RegField) (k : Word)
  /-- Row 21: `MUL Rd, Rs` (R87). -/
  | mulRR (r1 : RegField) (r2 : RegField)
  /-- Row 22: `MUL Rd, #k` (R87). -/
  | mulRL (r1 : RegField) (k : Word)
  /-- Row 23: `MUL.B Rd, Rs` (R87). -/
  | mulBRR (r1 : RegField) (r2 : RegField)
  /-- Row 24: `MUL.B Rd, #k` (R87). -/
  | mulBRL (r1 : RegField) (k : Word)
  /-- Row 25: `DIV Rd, Rs` (R88). -/
  | divRR (r1 : RegField) (r2 : RegField)
  /-- Row 26: `DIV Rd, #k` (R88). -/
  | divRL (r1 : RegField) (k : Word)
  /-- Row 27: `DIV.B Rd, Rs` (R88). -/
  | divBRR (r1 : RegField) (r2 : RegField)
  /-- Row 28: `DIV.B Rd, #k` (R88). -/
  | divBRL (r1 : RegField) (k : Word)
  /-- Row 29: `MOD Rd, Rs` (R89). -/
  | modRR (r1 : RegField) (r2 : RegField)
  /-- Row 30: `MOD Rd, #k` (R89). -/
  | modRL (r1 : RegField) (k : Word)
  /-- Row 31: `MOD.B Rd, Rs` (R89). -/
  | modBRR (r1 : RegField) (r2 : RegField)
  /-- Row 32: `MOD.B Rd, #k` (R89). -/
  | modBRL (r1 : RegField) (k : Word)
  /-- Row 33: `INC Rd` (R90). -/
  | incR (r1 : RegField)
  /-- Row 34: `INC.B Rd` (R90). -/
  | incBR (r1 : RegField)
  /-- Row 35: `DEC Rd` (R91). -/
  | decR (r1 : RegField)
  /-- Row 36: `DEC.B Rd` (R91). -/
  | decBR (r1 : RegField)
  /-- Row 37: `AND Rd, Rs` (R100). -/
  | andRR (r1 : RegField) (r2 : RegField)
  /-- Row 38: `AND Rd, #k` (R100). -/
  | andRL (r1 : RegField) (k : Word)
  /-- Row 39: `AND.B Rd, Rs` (R100). -/
  | andBRR (r1 : RegField) (r2 : RegField)
  /-- Row 40: `AND.B Rd, #k` (R100). -/
  | andBRL (r1 : RegField) (k : Word)
  /-- Row 41: `OR Rd, Rs` (R101). -/
  | orRR (r1 : RegField) (r2 : RegField)
  /-- Row 42: `OR Rd, #k` (R101). -/
  | orRL (r1 : RegField) (k : Word)
  /-- Row 43: `OR.B Rd, Rs` (R101). -/
  | orBRR (r1 : RegField) (r2 : RegField)
  /-- Row 44: `OR.B Rd, #k` (R101). -/
  | orBRL (r1 : RegField) (k : Word)
  /-- Row 45: `SHL Rd, Rs` (R102). -/
  | shlRR (r1 : RegField) (r2 : RegField)
  /-- Row 46: `SHL Rd, #k` (R102). -/
  | shlRL (r1 : RegField) (k : Word)
  /-- Row 47: `SHR Rd, Rs` (R103). -/
  | shrRR (r1 : RegField) (r2 : RegField)
  /-- Row 48: `SHR Rd, #k` (R103). -/
  | shrRL (r1 : RegField) (k : Word)
  /-- Row 49: `NOT Rd` (R104). -/
  | notR (r1 : RegField)
  /-- Row 50: `NOT.B Rd` (R104). -/
  | notBR (r1 : RegField)
  /-- Row 51: `CMP Rd, Rs` (R110). -/
  | cmpRR (r1 : RegField) (r2 : RegField)
  /-- Row 52: `CMP Rd, #k` (R110). -/
  | cmpRL (r1 : RegField) (k : Word)
  /-- Row 53: `CMP.B Rd, Rs` (R110). -/
  | cmpBRR (r1 : RegField) (r2 : RegField)
  /-- Row 54: `CMP.B Rd, #k` (R110). -/
  | cmpBRL (r1 : RegField) (k : Word)
  /-- Row 55: `JMP Rd` (R113). -/
  | jmpR (r1 : RegField)
  /-- Row 56: `JMP #k` (R113). -/
  | jmpL (k : Word)
  /-- Row 57: `JZ Rd` (R114). -/
  | jzR (r1 : RegField)
  /-- Row 58: `JZ #k` (R114). -/
  | jzL (k : Word)
  /-- Row 59: `JNZ Rd` (R115). -/
  | jnzR (r1 : RegField)
  /-- Row 60: `JNZ #k` (R115). -/
  | jnzL (k : Word)
  /-- Row 61: `JN Rd` (R116). -/
  | jnR (r1 : RegField)
  /-- Row 62: `JN #k` (R116). -/
  | jnL (k : Word)
  /-- Row 63: `JNN Rd` (R117). -/
  | jnnR (r1 : RegField)
  /-- Row 64: `JNN #k` (R117). -/
  | jnnL (k : Word)
  /-- Row 65: `JC Rd` (R118). -/
  | jcR (r1 : RegField)
  /-- Row 66: `JC #k` (R118). -/
  | jcL (k : Word)
  /-- Row 67: `JNC Rd` (R119). -/
  | jncR (r1 : RegField)
  /-- Row 68: `JNC #k` (R119). -/
  | jncL (k : Word)
  /-- Row 69: `JSB #k` (R120). -/
  | jsbL (k : Word)
  /-- Row 70: `RSB` (R121). -/
  | rsb
  /-- Row 71: `CLI` (R130). -/
  | cli
  /-- Row 72: `SEI` (R131). -/
  | sei
  /-- Row 73: `RSI` (R132). -/
  | rsi
  deriving DecidableEq, Repr

end Sys2Proof
end

