-- ==== Sys2Proof/Machine/Ops.lean ====
section
/-! DEFINITION. The named operations over registers, flags, memory and the stack, and taking an interrupt and returning
from one (00_scope.md R8; 20_memory.md; 41_data_transfer.md section 2; 60_exceptions.md R146; 46_interrupt_handle.md
R132). -/

namespace Sys2Proof.Machine

/-! ## Registers -/

/-- `x[r]` (00_scope.md R8). -/
def State.reg (s : State) (r : Reg) : Word := s.regs.get r

/-- `x[r] <- v` (00_scope.md R8). A write to R14 is a transfer of control (10_state.md R14). -/
def State.setReg (s : State) (r : Reg) (v : Word) : State := { s with regs := s.regs.set r.val v r.isLt }

/-! ## Flags -/

/-- The bit of FLAGS that holds a flag (10_state.md R16). -/
def Flag.pos : Flag → Nat
  | .z => 0
  | .c => 1
  | .n => 2
  | .id => 3
  | .ip => 4
  | .h => 7

/-- Bit `k` of a byte made `b`, the others as they were. -/
def setBit (v : Byte) (k : Nat) (b : Bool) : Byte :=
  if b then v ||| (1#8 <<< k) else v &&& ~~~(1#8 <<< k)

/-- A flag's value (10_state.md R16). -/
def State.flag (s : State) (f : Flag) : Bool := s.flags.getLsbD f.pos

/-- One flag written, every other bit of FLAGS as it was (00_scope.md R8, `Z <- b`). -/
def State.setFlag (s : State) (f : Flag) (b : Bool) : State := { s with flags := setBit s.flags f.pos b }

/-! ## Byte order -/

/-- Bits 15 to 8 of a word (20_memory.md R32). -/
def hiByte (v : Word) : Byte := v.extractLsb' 8 8

/-- Bits 7 to 0 of a word (20_memory.md R32). -/
def loByte (v : Word) : Byte := v.extractLsb' 0 8

/-- The word of a high and a low byte: `hi ++ lo` (20_memory.md R36). -/
def joinBytes (hi lo : Byte) : Word := hi ++ lo

/-! ## Stored bytes -/

/-- The region of an address (20_memory.md R31). -/
def regionOf (a : Word) : Region :=
  if a.getLsbD 15 = false then .rom
  else if a.extractLsb' 12 4 = 0xF#4 then .devices
  else .ram

/-- The byte listed at an address, none where none is listed. -/
def Memory.find : Memory → Nat → Option Byte
  | [], _ => none
  | (k, b) :: m, a => if k = a then some b else Memory.find m a

/-- A byte listed at an address, in place. -/
def Memory.put : Memory → Nat → Byte → Memory
  | [], a, b => [(a, b)]
  | (k, c) :: m, a, b =>
    if a < k then (a, b) :: (k, c) :: m
    else if a = k then (a, b) :: m
    else (k, c) :: Memory.put m a b

/-- Addresses strictly rising from `lo` on, all below the device region 0xF000. -/
def Memory.risingFrom : Nat → Memory → Bool
  | _, [] => true
  | lo, (k, _) :: m => decide (lo ≤ k) && decide (k < 0xF000) && Memory.risingFrom (k + 1) m

/-- The canonical form of the memory: addresses strictly rising, none in the device region. -/
def Memory.wf (m : Memory) : Bool := Memory.risingFrom 0 m

/-- What an unlisted byte of ROM or RAM holds: `ROM_IMAGE` in ROM (20_memory.md R33), a free value in RAM (10_state.md
R24; 93_implementation_defined.md U8). Log entries 2 and 3. -/
def unlisted (a : Word) : Byte :=
  match regionOf a with
  | .rom => Config.romImage a
  | _ => Config.ramInit a

/-- The byte ROM or RAM holds at an address: the read of one byte with no effect, for addresses below the device region
(20_memory.md R33, R34). -/
def State.stored (s : State) (a : Word) : Byte := (Memory.find s.mem a.toNat).getD (unlisted a)

/-! ## Reads (20_memory.md R36). A read of a device byte is an event the devices see (R35). -/

/-- `Read8(a)`: the byte, and the state after the read (20_memory.md R36). -/
def readByte (s : State) (a : Word) : Byte × State :=
  match regionOf a with
  | .devices => (Config.devRead s.devLog a, { s with devLog := s.devLog ++ [.read a] })
  | _ => (s.stored a, s)

/-- `MemRead(a, 2)`: the byte at `a` first, in bits 15 to 8 (20_memory.md R36). -/
def readWord (s : State) (a : Word) : Word × State :=
  let hi := readByte s a
  let lo := readByte hi.2 (a + 1#16)
  (joinBytes hi.1 lo.1, lo.2)

/-- `n` bytes read one by one at ascending addresses, each modulo 2^16 (30_encoding.md R58 step 4). -/
def readBytes : Nat → Word → State → List Byte × State
  | 0, _, s => ([], s)
  | n + 1, a, s =>
    let b := readByte s a
    let rest := readBytes n (a + 1#16) b.2
    (b.1 :: rest.1, rest.2)

/-! ## Writes (20_memory.md R37) -/

/-- Whether an address is in the ROM. -/
def inRom (a : Word) : Bool := decide (regionOf a = .rom)

/-- Whether either byte of a word at an address is in the ROM (20_memory.md R37). -/
def wordInRom (a : Word) : Bool := inRom a || inRom (a + 1#16)

/-- `Write8(a, b)`: stored in RAM, emitted to the devices. The ROM never changes (20_memory.md R33, R37); the callers
check for it first. -/
def storeByte (s : State) (a : Word) (b : Byte) : State :=
  match regionOf a with
  | .rom => s
  | .ram => { s with mem := Memory.put s.mem a.toNat b }
  | .devices => { s with devLog := s.devLog ++ [.write a b] }

/-- The two `Write8` of a word, the high byte at the lower address, first (20_memory.md R37). -/
def storeWord (s : State) (a : Word) (v : Word) : State :=
  storeByte (storeByte s a (hiByte v)) (a + 1#16) (loByte v)

/-- `MemWrite(a, W / 8, v)` (20_memory.md R37): the fault RomWrite, nothing written, if any of its bytes is in ROM. -/
def memWrite (w : Width) (s : State) (a : Word) (v : Word) : Host.Outcome State Fault Refusal :=
  match w with
  | .byte => if inRom a then .fault .romWrite else .next (storeByte s a (loByte v))
  | .word => if wordInRom a then .fault .romWrite else .next (storeWord s a v)

/-! ## The stack (41_data_transfer.md R78, R79) -/

/-- `Push16(v)` once the ROM check has passed: SP down by 2, the word stored there (41_data_transfer.md R78). -/
def pushWord (s : State) (v : Word) : State :=
  storeWord (s.setReg Reg.sp (s.reg Reg.sp - 2#16)) (s.reg Reg.sp - 2#16) v

/-- `Push16(v)` and then `k`: the fault RomWrite if the new SP or the byte after it is in ROM, SP then unchanged
(41_data_transfer.md R78). -/
def push (s : State) (v : Word) (k : State → State) : Host.Outcome State Fault Refusal :=
  if wordInRom (s.reg Reg.sp - 2#16) then .fault .romWrite else .next (k (pushWord s v))

/-- `Pull16()`: the word at SP, and the state with SP up by 2 (41_data_transfer.md R79). -/
def pull (s : State) : Word × State :=
  let v := readWord s (s.reg Reg.sp)
  (v.1, v.2.setReg Reg.sp (v.2.reg Reg.sp + 2#16))

/-! ## The interrupt (60_exceptions.md section 2) -/

/-- What the environment does between two steps: `IP <- 1` if it makes a request (60_exceptions.md R144). -/
def environmentMoves (s : State) : State :=
  match s.requests with
  | [] => s
  | true :: rest => { s with requests := rest }.setFlag .ip true
  | false :: rest => { s with requests := rest }

/-- The test at the start of a step (60_exceptions.md R145), H = 0 being tested before it. -/
def State.takesInterrupt (s : State) : Bool := s.flag .ip && !s.flag .id

/-- Interrupt entry (60_exceptions.md R146): RomWrite if any of the four pushed bytes would be in ROM; otherwise IP is
cleared, PC and then FLAGS zero-extended are pushed, ID is set and control goes to `IRQ_VECTOR` (R147). -/
def interruptEntry (s : State) : Host.Outcome State Fault Refusal :=
  let sp := s.reg Reg.sp
  if wordInRom (sp - 4#16) || wordInRom (sp - 2#16) then .fault .romWrite
  else
    let acknowledged := s.setFlag .ip false
    let savedPc := pushWord acknowledged (acknowledged.reg Reg.pc)
    let savedFlags := pushWord savedPc (savedPc.flags.setWidth 16)
    .next ((savedFlags.setFlag .id true).setReg Reg.pc Config.irqVector)

/-- FLAGS with bits 3 to 0 taken from a pulled word, bits 7 to 4 kept (46_interrupt_handle.md R132). -/
def restoreFlags (old : Byte) (w : Word) : Byte := (old &&& 0xF0#8) ||| (loByte w &&& 0x0F#8)

/-- Return from interrupt (46_interrupt_handle.md R132): the FLAGS word is pulled, then the return address. -/
def interruptReturn (s : State) : State :=
  let w := pull s
  let t := pull w.2
  { t.2 with flags := restoreFlags t.2.flags w.1 }.setReg Reg.pc t.1

end Sys2Proof.Machine
end

