-- ==== Sys2Proof/Machine/Operands.lean ====
section
/-! DEFINITION. The operand forms: Reg fields, operand values of either width, and the results written back
(30_encoding.md R55, R57). -/

namespace Sys2Proof.Machine

/-- `W`: 16 or 8 bits (00_scope.md R8). -/
def bitsOf : Width → Nat
  | .word => 16
  | .byte => 8

/-- `v & M` as an unsigned number, `M = 2^W - 1`: the whole value for a word, its low byte for a byte (30_encoding.md
R57). -/
def narrow (w : Width) (v : Word) : Nat := v.toNat % 2 ^ bitsOf w

/-- `zext_16(r)`: a `W`-bit result as a register holds it (30_encoding.md R57). -/
def zext16 (r : Nat) : Word := BitVec.ofNat 16 r

/-- The register a Reg field names, none for 16 to 255 (30_encoding.md R55). -/
def regOf (f : RegField) : Option Reg := if h : f.toNat < 16 then some ⟨f.toNat, h⟩ else none

/-- The register a Reg field names, for a meaning; the fault IllegalInstruction where it names none (30_encoding.md R60).
The decoder has refused such a field already: the fault keeps an ill-formed term from having an effect. -/
def withReg (f : RegField) (k : Reg → Host.Outcome State Fault Refusal) : Host.Outcome State Fault Refusal :=
  match regOf f with
  | some r => k r
  | none => .fault .illegalInstruction

/-- ARG 2, by the L bit: a register, or a literal (30_encoding.md R57, operand `b`). -/
inductive Source where
  | reg (f : RegField)
  | lit (k : Word)
  deriving DecidableEq, Repr

/-- The 16 bits of ARG 2, read before anything is written (30_encoding.md R57). -/
def withSource (x : Source) (s : State) (k : Word → Host.Outcome State Fault Refusal) :
    Host.Outcome State Fault Refusal :=
  match x with
  | .reg f => withReg f fun r => k (s.reg r)
  | .lit v => k v

end Sys2Proof.Machine
end

