-- ==== Sys2Proof/Machine/Flags.lean ====
section
/-! DEFINITION. What each arithmetic, logic and comparison operation computes, its result and its carry, over unbounded
naturals narrowed at the end, and how a result sets the flags (10_state.md R19, R20; 42_arithmetic.md; 43_logic.md;
44_comparison.md). -/

namespace Sys2Proof.Machine

/-- What an operation gives: the `W`-bit result, and the new C, or none where C is left unchanged. -/
structure Alu where
  result : Nat
  carry : Option Bool
  deriving DecidableEq, Repr

/-- `SetZN(r)` (10_state.md R19). -/
def setZN (w : Width) (r : Nat) (s : State) : State :=
  (s.setFlag .z (decide (r = 0))).setFlag .n (r.testBit (bitsOf w - 1))

/-- C written, or left as it was. -/
def setCarry (c : Option Bool) (s : State) : State :=
  match c with
  | some b => s.setFlag .c b
  | none => s

/-- The flags of an operation: C as it says, Z and N from the result. -/
def setFlags (w : Width) (o : Alu) (s : State) : State := setZN w o.result (setCarry o.carry s)

/-- The flags of an operation and its result in the first argument's register, zero-extended (30_encoding.md R57). -/
def commit (w : Width) (d : Reg) (o : Alu) (s : State) : State := (setFlags w o s).setReg d (zext16 o.result)

/-- ADD: sum, carry out of bit W-1 (42_arithmetic.md R85). -/
def addAlu (w : Width) (a b : Nat) : Alu where
  result := (a + b) % 2 ^ bitsOf w
  carry := some (decide (2 ^ bitsOf w ≤ a + b))

/-- SUB and CMP: first minus second modulo 2^W, C the unsigned borrow (42_arithmetic.md R86; 44_comparison.md R110). -/
def subAlu (w : Width) (a b : Nat) : Alu where
  result := (2 ^ bitsOf w + a - b) % 2 ^ bitsOf w
  carry := some (decide (a < b))

/-- MUL: the low W bits, C when the product does not fit (42_arithmetic.md R87). -/
def mulAlu (w : Width) (a b : Nat) : Alu where
  result := a * b % 2 ^ bitsOf w
  carry := some (decide (2 ^ bitsOf w ≤ a * b))

/-- DIV: the unsigned floor quotient, C unchanged (42_arithmetic.md R88); for a divisor that is not 0. -/
def divAlu (a b : Nat) : Alu where
  result := a / b
  carry := none

/-- MOD: the unsigned remainder, C unchanged (42_arithmetic.md R89); for a divisor that is not 0. -/
def modAlu (a b : Nat) : Alu where
  result := a - b * (a / b)
  carry := none

/-- INC: one more modulo 2^W, C when the operand was M (42_arithmetic.md R90). -/
def incAlu (w : Width) (a : Nat) : Alu where
  result := (a + 1) % 2 ^ bitsOf w
  carry := some (decide (a = 2 ^ bitsOf w - 1))

/-- DEC: one less modulo 2^W, C when the operand was 0 (42_arithmetic.md R91). -/
def decAlu (w : Width) (a : Nat) : Alu where
  result := (2 ^ bitsOf w + a - 1) % 2 ^ bitsOf w
  carry := some (decide (a = 0))

/-- AND, C unchanged (43_logic.md R100). -/
def andAlu (a b : Nat) : Alu where
  result := a &&& b
  carry := none

/-- OR, C unchanged (43_logic.md R101). -/
def orAlu (a b : Nat) : Alu where
  result := a ||| b
  carry := none

/-- NOT: `M - a`, C unchanged (43_logic.md R104). -/
def notAlu (w : Width) (a : Nat) : Alu where
  result := 2 ^ bitsOf w - 1 - a
  carry := none

/-- SHL by the whole 16-bit count: C the last bit shifted out, unchanged for count 0, 0 past 16 (43_logic.md R102). -/
def shlAlu (a n : Nat) : Alu :=
  if n = 0 then ⟨a, none⟩
  else if n ≤ 16 then ⟨a * 2 ^ n % 2 ^ 16, some (a.testBit (16 - n))⟩
  else ⟨0, some false⟩

/-- SHR, logical, by the whole 16-bit count: C the last bit shifted out, unchanged for count 0, 0 past 16 (43_logic.md
R103). -/
def shrAlu (a n : Nat) : Alu :=
  if n = 0 then ⟨a, none⟩
  else if n ≤ 16 then ⟨a / 2 ^ n, some (a.testBit (n - 1))⟩
  else ⟨0, some false⟩

end Sys2Proof.Machine
end

