-- ==== Sys2Proof/Machine/Forms.lean ====
section
/-! DEFINITION. The shapes that instructions of a family share: operands read, operation done, result written. Every source
operand is read from the state before anything is written (30_encoding.md R57, R58). On entry the PC already holds the
address of the next instruction (10_state.md R14). -/

namespace Sys2Proof.Machine

/-- A two-argument operation whose result goes to ARG 1's register (42_arithmetic.md and 43_logic.md, common parts). -/
def binary (w : Width) (f : Nat → Nat → Alu) (r1 : RegField) (x : Source) (s : State) :
    Host.Outcome State Fault Refusal :=
  withReg r1 fun d => withSource x s fun b => .next (commit w d (f (narrow w (s.reg d)) (narrow w b)) s)

/-- A two-argument operation that faults on a second operand of 0 (42_arithmetic.md R88, R89). -/
def dividing (w : Width) (f : Nat → Nat → Alu) (r1 : RegField) (x : Source) (s : State) :
    Host.Outcome State Fault Refusal :=
  withReg r1 fun d => withSource x s fun b =>
    if narrow w b = 0 then .fault .divideByZero
    else .next (commit w d (f (narrow w (s.reg d)) (narrow w b)) s)

/-- A one-argument operation on ARG 1's register (42_arithmetic.md section 2; 43_logic.md R104). -/
def unary (w : Width) (f : Nat → Alu) (r1 : RegField) (s : State) : Host.Outcome State Fault Refusal :=
  withReg r1 fun d => .next (commit w d (f (narrow w (s.reg d))) s)

/-- A comparison: the flags of the subtraction, no register written (44_comparison.md R110). -/
def comparing (w : Width) (r1 : RegField) (x : Source) (s : State) : Host.Outcome State Fault Refusal :=
  withReg r1 fun d => withSource x s fun b =>
    .next (setFlags w (subAlu w (narrow w (s.reg d)) (narrow w b)) s)

/-- MOV to a register (41_data_transfer.md R75). -/
def moving (w : Width) (r1 : RegField) (x : Source) (s : State) : Host.Outcome State Fault Refusal :=
  withReg r1 fun d => withSource x s fun b => .next (s.setReg d (zext16 (narrow w b)))

/-- MOV to the memory at the address in ARG 1's register, all 16 bits of it (41_data_transfer.md R76). -/
def storing (w : Width) (r1 : RegField) (x : Source) (s : State) : Host.Outcome State Fault Refusal :=
  withReg r1 fun d => withSource x s fun b => memWrite w s (s.reg d) (zext16 (narrow w b))

/-- A jump to an absolute address, taken or not (45_control_flow.md, common part). -/
def jumping (taken : Bool) (x : Source) (s : State) : Host.Outcome State Fault Refusal :=
  withSource x s fun t => .next (if taken then s.setReg Reg.pc t else s)

end Sys2Proof.Machine
end

