-- ==== Sys2Proof/Machine/Arithmetic.lean ====
section
/-! DEFINITION. The meanings of the TYPE Arithmetic: ADD, SUB, MUL, DIV, MOD, INC, DEC (42_arithmetic.md). -/

namespace Sys2Proof.Machine

/-- `ADD Rd, Rs`: sum; Z, C, N (42_arithmetic.md R85). -/
def execAddRR (r1 : RegField) (r2 : RegField) (s : State) : Host.Outcome State Fault Refusal :=
  binary .word (addAlu .word) r1 (.reg r2) s

/-- `ADD Rd, #k`: sum; Z, C, N (42_arithmetic.md R85). -/
def execAddRL (r1 : RegField) (k : Word) (s : State) : Host.Outcome State Fault Refusal :=
  binary .word (addAlu .word) r1 (.lit k) s

/-- `ADD.B Rd, Rs`: sum; Z, C, N (42_arithmetic.md R85). -/
def execAddBRR (r1 : RegField) (r2 : RegField) (s : State) : Host.Outcome State Fault Refusal :=
  binary .byte (addAlu .byte) r1 (.reg r2) s

/-- `ADD.B Rd, #k`: sum; Z, C, N (42_arithmetic.md R85). -/
def execAddBRL (r1 : RegField) (k : Word) (s : State) : Host.Outcome State Fault Refusal :=
  binary .byte (addAlu .byte) r1 (.lit k) s

/-- `SUB Rd, Rs`: difference; Z, C as borrow, N (42_arithmetic.md R86). -/
def execSubRR (r1 : RegField) (r2 : RegField) (s : State) : Host.Outcome State Fault Refusal :=
  binary .word (subAlu .word) r1 (.reg r2) s

/-- `SUB Rd, #k`: difference; Z, C as borrow, N (42_arithmetic.md R86). -/
def execSubRL (r1 : RegField) (k : Word) (s : State) : Host.Outcome State Fault Refusal :=
  binary .word (subAlu .word) r1 (.lit k) s

/-- `SUB.B Rd, Rs`: difference; Z, C as borrow, N (42_arithmetic.md R86). -/
def execSubBRR (r1 : RegField) (r2 : RegField) (s : State) : Host.Outcome State Fault Refusal :=
  binary .byte (subAlu .byte) r1 (.reg r2) s

/-- `SUB.B Rd, #k`: difference; Z, C as borrow, N (42_arithmetic.md R86). -/
def execSubBRL (r1 : RegField) (k : Word) (s : State) : Host.Outcome State Fault Refusal :=
  binary .byte (subAlu .byte) r1 (.lit k) s

/-- `MUL Rd, Rs`: low half of the product; Z, C, N (42_arithmetic.md R87). -/
def execMulRR (r1 : RegField) (r2 : RegField) (s : State) : Host.Outcome State Fault Refusal :=
  binary .word (mulAlu .word) r1 (.reg r2) s

/-- `MUL Rd, #k`: low half of the product; Z, C, N (42_arithmetic.md R87). -/
def execMulRL (r1 : RegField) (k : Word) (s : State) : Host.Outcome State Fault Refusal :=
  binary .word (mulAlu .word) r1 (.lit k) s

/-- `MUL.B Rd, Rs`: low half of the product; Z, C, N (42_arithmetic.md R87). -/
def execMulBRR (r1 : RegField) (r2 : RegField) (s : State) : Host.Outcome State Fault Refusal :=
  binary .byte (mulAlu .byte) r1 (.reg r2) s

/-- `MUL.B Rd, #k`: low half of the product; Z, C, N (42_arithmetic.md R87). -/
def execMulBRL (r1 : RegField) (k : Word) (s : State) : Host.Outcome State Fault Refusal :=
  binary .byte (mulAlu .byte) r1 (.lit k) s

/-- `DIV Rd, Rs`: quotient; Z, N; C kept (42_arithmetic.md R88). -/
def execDivRR (r1 : RegField) (r2 : RegField) (s : State) : Host.Outcome State Fault Refusal :=
  dividing .word divAlu r1 (.reg r2) s

/-- `DIV Rd, #k`: quotient; Z, N; C kept (42_arithmetic.md R88). -/
def execDivRL (r1 : RegField) (k : Word) (s : State) : Host.Outcome State Fault Refusal :=
  dividing .word divAlu r1 (.lit k) s

/-- `DIV.B Rd, Rs`: quotient; Z, N; C kept (42_arithmetic.md R88). -/
def execDivBRR (r1 : RegField) (r2 : RegField) (s : State) : Host.Outcome State Fault Refusal :=
  dividing .byte divAlu r1 (.reg r2) s

/-- `DIV.B Rd, #k`: quotient; Z, N; C kept (42_arithmetic.md R88). -/
def execDivBRL (r1 : RegField) (k : Word) (s : State) : Host.Outcome State Fault Refusal :=
  dividing .byte divAlu r1 (.lit k) s

/-- `MOD Rd, Rs`: remainder; Z, N; C kept (42_arithmetic.md R89). -/
def execModRR (r1 : RegField) (r2 : RegField) (s : State) : Host.Outcome State Fault Refusal :=
  dividing .word modAlu r1 (.reg r2) s

/-- `MOD Rd, #k`: remainder; Z, N; C kept (42_arithmetic.md R89). -/
def execModRL (r1 : RegField) (k : Word) (s : State) : Host.Outcome State Fault Refusal :=
  dividing .word modAlu r1 (.lit k) s

/-- `MOD.B Rd, Rs`: remainder; Z, N; C kept (42_arithmetic.md R89). -/
def execModBRR (r1 : RegField) (r2 : RegField) (s : State) : Host.Outcome State Fault Refusal :=
  dividing .byte modAlu r1 (.reg r2) s

/-- `MOD.B Rd, #k`: remainder; Z, N; C kept (42_arithmetic.md R89). -/
def execModBRL (r1 : RegField) (k : Word) (s : State) : Host.Outcome State Fault Refusal :=
  dividing .byte modAlu r1 (.lit k) s

/-- `INC Rd`: as ADD with 1 (42_arithmetic.md R90). -/
def execIncR (r1 : RegField) (s : State) : Host.Outcome State Fault Refusal :=
  unary .word (incAlu .word) r1 s

/-- `INC.B Rd`: as ADD with 1 (42_arithmetic.md R90). -/
def execIncBR (r1 : RegField) (s : State) : Host.Outcome State Fault Refusal :=
  unary .byte (incAlu .byte) r1 s

/-- `DEC Rd`: as SUB with 1 (42_arithmetic.md R91). -/
def execDecR (r1 : RegField) (s : State) : Host.Outcome State Fault Refusal :=
  unary .word (decAlu .word) r1 s

/-- `DEC.B Rd`: as SUB with 1 (42_arithmetic.md R91). -/
def execDecBR (r1 : RegField) (s : State) : Host.Outcome State Fault Refusal :=
  unary .byte (decAlu .byte) r1 s

end Sys2Proof.Machine
end

