-- ==== Sys2Proof/Machine/Comparison.lean ====
section
/-! DEFINITION. The meanings of the TYPE Comparison: CMP (44_comparison.md). -/

namespace Sys2Proof.Machine

/-- `CMP Rd, Rs`: the flags of SUB, no register written (44_comparison.md R110). -/
def execCmpRR (r1 : RegField) (r2 : RegField) (s : State) : Host.Outcome State Fault Refusal :=
  comparing .word r1 (.reg r2) s

/-- `CMP Rd, #k`: the flags of SUB, no register written (44_comparison.md R110). -/
def execCmpRL (r1 : RegField) (k : Word) (s : State) : Host.Outcome State Fault Refusal :=
  comparing .word r1 (.lit k) s

/-- `CMP.B Rd, Rs`: the flags of SUB, no register written (44_comparison.md R110). -/
def execCmpBRR (r1 : RegField) (r2 : RegField) (s : State) : Host.Outcome State Fault Refusal :=
  comparing .byte r1 (.reg r2) s

/-- `CMP.B Rd, #k`: the flags of SUB, no register written (44_comparison.md R110). -/
def execCmpBRL (r1 : RegField) (k : Word) (s : State) : Host.Outcome State Fault Refusal :=
  comparing .byte r1 (.lit k) s

end Sys2Proof.Machine
end

