-- ==== Sys2Proof/Machine/Control.lean ====
section
/-! DEFINITION. The meanings of the TYPE Control: NOP, HLT (40_control.md). -/

namespace Sys2Proof.Machine

/-- `NOP`: no effect; the step has advanced the PC (40_control.md R70). -/
def execNop (s : State) : Host.Outcome State Fault Refusal :=
  .next s

/-- `HLT`: `H <- 1` (40_control.md R71). -/
def execHlt (s : State) : Host.Outcome State Fault Refusal :=
  .next (s.setFlag .h true)

end Sys2Proof.Machine
end

