-- ==== Sys2Proof/Machine/ControlFlow.lean ====
section
/-! DEFINITION. The meanings of the TYPE Control Flow: JMP, JZ, JNZ, JN, JNN, JC, JNC, JSB, RSB (45_control_flow.md). -/

namespace Sys2Proof.Machine

/-- `JMP Rd`: always taken (45_control_flow.md R113). -/
def execJmpR (r1 : RegField) (s : State) : Host.Outcome State Fault Refusal :=
  jumping true (.reg r1) s

/-- `JMP #k`: always taken (45_control_flow.md R113). -/
def execJmpL (k : Word) (s : State) : Host.Outcome State Fault Refusal :=
  jumping true (.lit k) s

/-- `JZ Rd`: taken when Z = 1 (45_control_flow.md R114). -/
def execJzR (r1 : RegField) (s : State) : Host.Outcome State Fault Refusal :=
  jumping (s.flag .z) (.reg r1) s

/-- `JZ #k`: taken when Z = 1 (45_control_flow.md R114). -/
def execJzL (k : Word) (s : State) : Host.Outcome State Fault Refusal :=
  jumping (s.flag .z) (.lit k) s

/-- `JNZ Rd`: taken when Z = 0 (45_control_flow.md R115). -/
def execJnzR (r1 : RegField) (s : State) : Host.Outcome State Fault Refusal :=
  jumping (!s.flag .z) (.reg r1) s

/-- `JNZ #k`: taken when Z = 0 (45_control_flow.md R115). -/
def execJnzL (k : Word) (s : State) : Host.Outcome State Fault Refusal :=
  jumping (!s.flag .z) (.lit k) s

/-- `JN Rd`: taken when N = 1 (45_control_flow.md R116). -/
def execJnR (r1 : RegField) (s : State) : Host.Outcome State Fault Refusal :=
  jumping (s.flag .n) (.reg r1) s

/-- `JN #k`: taken when N = 1 (45_control_flow.md R116). -/
def execJnL (k : Word) (s : State) : Host.Outcome State Fault Refusal :=
  jumping (s.flag .n) (.lit k) s

/-- `JNN Rd`: taken when N = 0 (45_control_flow.md R117). -/
def execJnnR (r1 : RegField) (s : State) : Host.Outcome State Fault Refusal :=
  jumping (!s.flag .n) (.reg r1) s

/-- `JNN #k`: taken when N = 0 (45_control_flow.md R117). -/
def execJnnL (k : Word) (s : State) : Host.Outcome State Fault Refusal :=
  jumping (!s.flag .n) (.lit k) s

/-- `JC Rd`: taken when C = 1 (45_control_flow.md R118). -/
def execJcR (r1 : RegField) (s : State) : Host.Outcome State Fault Refusal :=
  jumping (s.flag .c) (.reg r1) s

/-- `JC #k`: taken when C = 1 (45_control_flow.md R118). -/
def execJcL (k : Word) (s : State) : Host.Outcome State Fault Refusal :=
  jumping (s.flag .c) (.lit k) s

/-- `JNC Rd`: taken when C = 0 (45_control_flow.md R119). -/
def execJncR (r1 : RegField) (s : State) : Host.Outcome State Fault Refusal :=
  jumping (!s.flag .c) (.reg r1) s

/-- `JNC #k`: taken when C = 0 (45_control_flow.md R119). -/
def execJncL (k : Word) (s : State) : Host.Outcome State Fault Refusal :=
  jumping (!s.flag .c) (.lit k) s

/-- `JSB #k`: the address of the next instruction pushed, then the jump (45_control_flow.md R120). -/
def execJsbL (k : Word) (s : State) : Host.Outcome State Fault Refusal :=
  push s (s.reg Reg.pc) fun t => t.setReg Reg.pc k

/-- `RSB`: the word pulled is the PC (45_control_flow.md R121). -/
def execRsb (s : State) : Host.Outcome State Fault Refusal :=
  .next ((pull s).2.setReg Reg.pc (pull s).1)

end Sys2Proof.Machine
end

