-- ==== Sys2Proof/Machine/DataTransfer.lean ====
section
/-! DEFINITION. The meanings of the TYPE Data Transfer: MOV, PHR, PLR (41_data_transfer.md). -/

namespace Sys2Proof.Machine

/-- `MOV Rd, Rs`: ARG 2 to the register of ARG 1, no flag written (41_data_transfer.md R75). -/
def execMovRR (r1 : RegField) (r2 : RegField) (s : State) : Host.Outcome State Fault Refusal :=
  moving .word r1 (.reg r2) s

/-- `MOV Rd, #k`: ARG 2 to the register of ARG 1, no flag written (41_data_transfer.md R75). -/
def execMovRL (r1 : RegField) (k : Word) (s : State) : Host.Outcome State Fault Refusal :=
  moving .word r1 (.lit k) s

/-- `MOV.B Rd, Rs`: ARG 2 to the register of ARG 1, no flag written (41_data_transfer.md R75). -/
def execMovBRR (r1 : RegField) (r2 : RegField) (s : State) : Host.Outcome State Fault Refusal :=
  moving .byte r1 (.reg r2) s

/-- `MOV.B Rd, #k`: ARG 2 to the register of ARG 1, no flag written (41_data_transfer.md R75). -/
def execMovBRL (r1 : RegField) (k : Word) (s : State) : Host.Outcome State Fault Refusal :=
  moving .byte r1 (.lit k) s

/-- `MOV Rd*, Rs`: ARG 2 to the memory at the address in ARG 1's register, no flag written (41_data_transfer.md R76). -/
def execMovIndRR (r1 : RegField) (r2 : RegField) (s : State) : Host.Outcome State Fault Refusal :=
  storing .word r1 (.reg r2) s

/-- `MOV Rd*, #k`: ARG 2 to the memory at the address in ARG 1's register, no flag written (41_data_transfer.md R76). -/
def execMovIndRL (r1 : RegField) (k : Word) (s : State) : Host.Outcome State Fault Refusal :=
  storing .word r1 (.lit k) s

/-- `MOV.B Rd*, Rs`: ARG 2 to the memory at the address in ARG 1's register, no flag written (41_data_transfer.md R76). -/
def execMovBIndRR (r1 : RegField) (r2 : RegField) (s : State) : Host.Outcome State Fault Refusal :=
  storing .byte r1 (.reg r2) s

/-- `MOV.B Rd*, #k`: ARG 2 to the memory at the address in ARG 1's register, no flag written (41_data_transfer.md R76). -/
def execMovBIndRL (r1 : RegField) (k : Word) (s : State) : Host.Outcome State Fault Refusal :=
  storing .byte r1 (.lit k) s

/-- `PHR Rd`: the register pushed, read before SP moves (41_data_transfer.md R80). -/
def execPhrR (r1 : RegField) (s : State) : Host.Outcome State Fault Refusal :=
  withReg r1 fun d => push s (s.reg d) fun t => t

/-- `PLR Rd`: the word pulled to the register after SP has moved, so that for R15 the word wins (41_data_transfer.md R81). -/
def execPlrR (r1 : RegField) (s : State) : Host.Outcome State Fault Refusal :=
  withReg r1 fun d => .next ((pull s).2.setReg d (pull s).1)

end Sys2Proof.Machine
end

