-- ==== Sys2Proof/Machine/InterruptHandle.lean ====
section
/-! DEFINITION. The meanings of the TYPE Interrupt Handle: CLI, SEI, RSI (46_interrupt_handle.md). -/

namespace Sys2Proof.Machine

/-- `CLI`: `ID <- 0` (46_interrupt_handle.md R130). -/
def execCli (s : State) : Host.Outcome State Fault Refusal :=
  .next (s.setFlag .id false)

/-- `SEI`: `ID <- 1` (46_interrupt_handle.md R131). -/
def execSei (s : State) : Host.Outcome State Fault Refusal :=
  .next (s.setFlag .id true)

/-- `RSI`: FLAGS[3:0] and the PC pulled (46_interrupt_handle.md R132). -/
def execRsi (s : State) : Host.Outcome State Fault Refusal :=
  .next (interruptReturn s)

end Sys2Proof.Machine
end

