-- ==== Sys2Proof/Machine/Logic.lean ====
section
/-! DEFINITION. The meanings of the TYPE Logic: AND, OR, SHL, SHR, NOT (43_logic.md). -/

namespace Sys2Proof.Machine

/-- `AND Rd, Rs`: bitwise and; Z, N; C kept (43_logic.md R100). -/
def execAndRR (r1 : RegField) (r2 : RegField) (s : State) : Host.Outcome State Fault Refusal :=
  binary .word andAlu r1 (.reg r2) s

/-- `AND Rd, #k`: bitwise and; Z, N; C kept (43_logic.md R100). -/
def execAndRL (r1 : RegField) (k : Word) (s : State) : Host.Outcome State Fault Refusal :=
  binary .word andAlu r1 (.lit k) s

/-- `AND.B Rd, Rs`: bitwise and; Z, N; C kept (43_logic.md R100). -/
def execAndBRR (r1 : RegField) (r2 : RegField) (s : State) : Host.Outcome State Fault Refusal :=
  binary .byte andAlu r1 (.reg r2) s

/-- `AND.B Rd, #k`: bitwise and; Z, N; C kept (43_logic.md R100). -/
def execAndBRL (r1 : RegField) (k : Word) (s : State) : Host.Outcome State Fault Refusal :=
  binary .byte andAlu r1 (.lit k) s

/-- `OR Rd, Rs`: bitwise or; Z, N; C kept (43_logic.md R101). -/
def execOrRR (r1 : RegField) (r2 : RegField) (s : State) : Host.Outcome State Fault Refusal :=
  binary .word orAlu r1 (.reg r2) s

/-- `OR Rd, #k`: bitwise or; Z, N; C kept (43_logic.md R101). -/
def execOrRL (r1 : RegField) (k : Word) (s : State) : Host.Outcome State Fault Refusal :=
  binary .word orAlu r1 (.lit k) s

/-- `OR.B Rd, Rs`: bitwise or; Z, N; C kept (43_logic.md R101). -/
def execOrBRR (r1 : RegField) (r2 : RegField) (s : State) : Host.Outcome State Fault Refusal :=
  binary .byte orAlu r1 (.reg r2) s

/-- `OR.B Rd, #k`: bitwise or; Z, N; C kept (43_logic.md R101). -/
def execOrBRL (r1 : RegField) (k : Word) (s : State) : Host.Outcome State Fault Refusal :=
  binary .byte orAlu r1 (.lit k) s

/-- `SHL Rd, Rs`: shift left; Z, N, and C when the count is not 0 (43_logic.md R102). -/
def execShlRR (r1 : RegField) (r2 : RegField) (s : State) : Host.Outcome State Fault Refusal :=
  binary .word shlAlu r1 (.reg r2) s

/-- `SHL Rd, #k`: shift left; Z, N, and C when the count is not 0 (43_logic.md R102). -/
def execShlRL (r1 : RegField) (k : Word) (s : State) : Host.Outcome State Fault Refusal :=
  binary .word shlAlu r1 (.lit k) s

/-- `SHR Rd, Rs`: logical shift right; Z, N, and C when the count is not 0 (43_logic.md R103). -/
def execShrRR (r1 : RegField) (r2 : RegField) (s : State) : Host.Outcome State Fault Refusal :=
  binary .word shrAlu r1 (.reg r2) s

/-- `SHR Rd, #k`: logical shift right; Z, N, and C when the count is not 0 (43_logic.md R103). -/
def execShrRL (r1 : RegField) (k : Word) (s : State) : Host.Outcome State Fault Refusal :=
  binary .word shrAlu r1 (.lit k) s

/-- `NOT Rd`: every bit inverted; Z, N; C kept (43_logic.md R104). -/
def execNotR (r1 : RegField) (s : State) : Host.Outcome State Fault Refusal :=
  unary .word (notAlu .word) r1 s

/-- `NOT.B Rd`: every bit inverted; Z, N; C kept (43_logic.md R104). -/
def execNotBR (r1 : RegField) (s : State) : Host.Outcome State Fault Refusal :=
  unary .byte (notAlu .byte) r1 s

end Sys2Proof.Machine
end

