-- ==== Sys2Proof/Machine/Dispatch.lean ====
section
/-! DEFINITION. exec: the meaning of each instruction, on a state whose PC already holds the address of the next
instruction (10_state.md R14; 30_encoding.md R58 step 6). -/

namespace Sys2Proof.Machine

def exec (i : Instr) (s : State) : Host.Outcome State Fault Refusal :=
  match i with
  | .nop => Sys2Proof.Machine.execNop s
  | .hlt => Sys2Proof.Machine.execHlt s
  | .movRR r1 r2 => Sys2Proof.Machine.execMovRR r1 r2 s
  | .movRL r1 k => Sys2Proof.Machine.execMovRL r1 k s
  | .movBRR r1 r2 => Sys2Proof.Machine.execMovBRR r1 r2 s
  | .movBRL r1 k => Sys2Proof.Machine.execMovBRL r1 k s
  | .movIndRR r1 r2 => Sys2Proof.Machine.execMovIndRR r1 r2 s
  | .movIndRL r1 k => Sys2Proof.Machine.execMovIndRL r1 k s
  | .movBIndRR r1 r2 => Sys2Proof.Machine.execMovBIndRR r1 r2 s
  | .movBIndRL r1 k => Sys2Proof.Machine.execMovBIndRL r1 k s
  | .phrR r1 => Sys2Proof.Machine.execPhrR r1 s
  | .plrR r1 => Sys2Proof.Machine.execPlrR r1 s
  | .addRR r1 r2 => Sys2Proof.Machine.execAddRR r1 r2 s
  | .addRL r1 k => Sys2Proof.Machine.execAddRL r1 k s
  | .addBRR r1 r2 => Sys2Proof.Machine.execAddBRR r1 r2 s
  | .addBRL r1 k => Sys2Proof.Machine.execAddBRL r1 k s
  | .subRR r1 r2 => Sys2Proof.Machine.execSubRR r1 r2 s
  | .subRL r1 k => Sys2Proof.Machine.execSubRL r1 k s
  | .subBRR r1 r2 => Sys2Proof.Machine.execSubBRR r1 r2 s
  | .subBRL r1 k => Sys2Proof.Machine.execSubBRL r1 k s
  | .mulRR r1 r2 => Sys2Proof.Machine.execMulRR r1 r2 s
  | .mulRL r1 k => Sys2Proof.Machine.execMulRL r1 k s
  | .mulBRR r1 r2 => Sys2Proof.Machine.execMulBRR r1 r2 s
  | .mulBRL r1 k => Sys2Proof.Machine.execMulBRL r1 k s
  | .divRR r1 r2 => Sys2Proof.Machine.execDivRR r1 r2 s
  | .divRL r1 k => Sys2Proof.Machine.execDivRL r1 k s
  | .divBRR r1 r2 => Sys2Proof.Machine.execDivBRR r1 r2 s
  | .divBRL r1 k => Sys2Proof.Machine.execDivBRL r1 k s
  | .modRR r1 r2 => Sys2Proof.Machine.execModRR r1 r2 s
  | .modRL r1 k => Sys2Proof.Machine.execModRL r1 k s
  | .modBRR r1 r2 => Sys2Proof.Machine.execModBRR r1 r2 s
  | .modBRL r1 k => Sys2Proof.Machine.execModBRL r1 k s
  | .incR r1 => Sys2Proof.Machine.execIncR r1 s
  | .incBR r1 => Sys2Proof.Machine.execIncBR r1 s
  | .decR r1 => Sys2Proof.Machine.execDecR r1 s
  | .decBR r1 => Sys2Proof.Machine.execDecBR r1 s
  | .andRR r1 r2 => Sys2Proof.Machine.execAndRR r1 r2 s
  | .andRL r1 k => Sys2Proof.Machine.execAndRL r1 k s
  | .andBRR r1 r2 => Sys2Proof.Machine.execAndBRR r1 r2 s
  | .andBRL r1 k => Sys2Proof.Machine.execAndBRL r1 k s
  | .orRR r1 r2 => Sys2Proof.Machine.execOrRR r1 r2 s
  | .orRL r1 k => Sys2Proof.Machine.execOrRL r1 k s
  | .orBRR r1 r2 => Sys2Proof.Machine.execOrBRR r1 r2 s
  | .orBRL r1 k => Sys2Proof.Machine.execOrBRL r1 k s
  | .shlRR r1 r2 => Sys2Proof.Machine.execShlRR r1 r2 s
  | .shlRL r1 k => Sys2Proof.Machine.execShlRL r1 k s
  | .shrRR r1 r2 => Sys2Proof.Machine.execShrRR r1 r2 s
  | .shrRL r1 k => Sys2Proof.Machine.execShrRL r1 k s
  | .notR r1 => Sys2Proof.Machine.execNotR r1 s
  | .notBR r1 => Sys2Proof.Machine.execNotBR r1 s
  | .cmpRR r1 r2 => Sys2Proof.Machine.execCmpRR r1 r2 s
  | .cmpRL r1 k => Sys2Proof.Machine.execCmpRL r1 k s
  | .cmpBRR r1 r2 => Sys2Proof.Machine.execCmpBRR r1 r2 s
  | .cmpBRL r1 k => Sys2Proof.Machine.execCmpBRL r1 k s
  | .jmpR r1 => Sys2Proof.Machine.execJmpR r1 s
  | .jmpL k => Sys2Proof.Machine.execJmpL k s
  | .jzR r1 => Sys2Proof.Machine.execJzR r1 s
  | .jzL k => Sys2Proof.Machine.execJzL k s
  | .jnzR r1 => Sys2Proof.Machine.execJnzR r1 s
  | .jnzL k => Sys2Proof.Machine.execJnzL k s
  | .jnR r1 => Sys2Proof.Machine.execJnR r1 s
  | .jnL k => Sys2Proof.Machine.execJnL k s
  | .jnnR r1 => Sys2Proof.Machine.execJnnR r1 s
  | .jnnL k => Sys2Proof.Machine.execJnnL k s
  | .jcR r1 => Sys2Proof.Machine.execJcR r1 s
  | .jcL k => Sys2Proof.Machine.execJcL k s
  | .jncR r1 => Sys2Proof.Machine.execJncR r1 s
  | .jncL k => Sys2Proof.Machine.execJncL k s
  | .jsbL k => Sys2Proof.Machine.execJsbL k s
  | .rsb => Sys2Proof.Machine.execRsb s
  | .cli => Sys2Proof.Machine.execCli s
  | .sei => Sys2Proof.Machine.execSei s
  | .rsi => Sys2Proof.Machine.execRsi s

end Sys2Proof.Machine
end

