-- ==== Sys2Proof/WellFormed.lean ====
section
/-! DEFINITION. Which instruction terms the encoding admits: every Reg field is the number of a register, 0 to 15
(30_encoding.md R55). A literal and an address are 16 bits by their type and need no check (R56). -/

namespace Sys2Proof

/-- The argument fields of an instruction, by the five formats of 30_encoding.md R54. -/
inductive Args where
  | none
  | reg (r1 : RegField)
  | regReg (r1 r2 : RegField)
  | lit (k : Word)
  | regLit (r1 : RegField) (k : Word)
  deriving DecidableEq, Repr

/-- A Reg field names a register: its value is 0 to 15 (30_encoding.md R55). -/
abbrev RegField.Names (f : RegField) : Prop := f.toNat < 16

/-- The check on the arguments: every Reg field among them names a register. -/
def Args.wellFormed : Args → Bool
  | .none => true
  | .reg r1 => decide (RegField.Names r1)
  | .regReg r1 r2 => decide (RegField.Names r1) && decide (RegField.Names r2)
  | .lit _ => true
  | .regLit r1 _ => decide (RegField.Names r1)

/-- ARG 1 and ARG 2 of each form (30_encoding.md R59, columns ARG 1 and ARG 2). -/
def Instr.args : Instr → Args
  | .nop => .none
  | .hlt => .none
  | .movRR r1 r2 => .regReg r1 r2
  | .movRL r1 k => .regLit r1 k
  | .movBRR r1 r2 => .regReg r1 r2
  | .movBRL r1 k => .regLit r1 k
  | .movIndRR r1 r2 => .regReg r1 r2
  | .movIndRL r1 k => .regLit r1 k
  | .movBIndRR r1 r2 => .regReg r1 r2
  | .movBIndRL r1 k => .regLit r1 k
  | .phrR r1 => .reg r1
  | .plrR r1 => .reg r1
  | .addRR r1 r2 => .regReg r1 r2
  | .addRL r1 k => .regLit r1 k
  | .addBRR r1 r2 => .regReg r1 r2
  | .addBRL r1 k => .regLit r1 k
  | .subRR r1 r2 => .regReg r1 r2
  | .subRL r1 k => .regLit r1 k
  | .subBRR r1 r2 => .regReg r1 r2
  | .subBRL r1 k => .regLit r1 k
  | .mulRR r1 r2 => .regReg r1 r2
  | .mulRL r1 k => .regLit r1 k
  | .mulBRR r1 r2 => .regReg r1 r2
  | .mulBRL r1 k => .regLit r1 k
  | .divRR r1 r2 => .regReg r1 r2
  | .divRL r1 k => .regLit r1 k
  | .divBRR r1 r2 => .regReg r1 r2
  | .divBRL r1 k => .regLit r1 k
  | .modRR r1 r2 => .regReg r1 r2
  | .modRL r1 k => .regLit r1 k
  | .modBRR r1 r2 => .regReg r1 r2
  | .modBRL r1 k => .regLit r1 k
  | .incR r1 => .reg r1
  | .incBR r1 => .reg r1
  | .decR r1 => .reg r1
  | .decBR r1 => .reg r1
  | .andRR r1 r2 => .regReg r1 r2
  | .andRL r1 k => .regLit r1 k
  | .andBRR r1 r2 => .regReg r1 r2
  | .andBRL r1 k => .regLit r1 k
  | .orRR r1 r2 => .regReg r1 r2
  | .orRL r1 k => .regLit r1 k
  | .orBRR r1 r2 => .regReg r1 r2
  | .orBRL r1 k => .regLit r1 k
  | .shlRR r1 r2 => .regReg r1 r2
  | .shlRL r1 k => .regLit r1 k
  | .shrRR r1 r2 => .regReg r1 r2
  | .shrRL r1 k => .regLit r1 k
  | .notR r1 => .reg r1
  | .notBR r1 => .reg r1
  | .cmpRR r1 r2 => .regReg r1 r2
  | .cmpRL r1 k => .regLit r1 k
  | .cmpBRR r1 r2 => .regReg r1 r2
  | .cmpBRL r1 k => .regLit r1 k
  | .jmpR r1 => .reg r1
  | .jmpL k => .lit k
  | .jzR r1 => .reg r1
  | .jzL k => .lit k
  | .jnzR r1 => .reg r1
  | .jnzL k => .lit k
  | .jnR r1 => .reg r1
  | .jnL k => .lit k
  | .jnnR r1 => .reg r1
  | .jnnL k => .lit k
  | .jcR r1 => .reg r1
  | .jcL k => .lit k
  | .jncR r1 => .reg r1
  | .jncL k => .lit k
  | .jsbL k => .lit k
  | .rsb => .none
  | .cli => .none
  | .sei => .none
  | .rsi => .none

/-- A well-formed instruction: one whose bytes are legal (30_encoding.md R55, R60). -/
abbrev Instr.WellFormed (i : Instr) : Prop := i.args.wellFormed = true

end Sys2Proof
end

