-- ==== Sys2Proof/Decode.lean ====
section
/-! DEFINITION. The decoder, total on any bytes, and after it the encoder. The decoder splits the first
byte (30_encoding.md R52) and looks its opcode and B, L, I up in the form table (R59); the encoder builds the first byte
from the columns op, B, L, I of the form. -/

namespace Sys2Proof

/-- Why bytes are no instruction (30_encoding.md R60; all but `tooShort` are the fault IllegalInstruction). -/
inductive DecodeError where
  /-- The first byte's opcode field is 0x1E or 0x1F. -/
  | unassignedOpcode
  /-- The opcode is assigned and its (B, L, I) is no row of the form table. -/
  | unlistedForm
  /-- A Reg byte is 16 to 255. -/
  | noSuchRegister
  /-- The bytes end before the instruction does; the machine never asks this, it reads as many bytes as the form has. -/
  | tooShort
  deriving DecidableEq, Repr

/-- A form of the table: the format of its arguments, and the instruction they make (30_encoding.md R54, R59). -/
inductive Form where
  | n (i : Instr)
  | r (mk : RegField → Instr)
  | rr (mk : RegField → RegField → Instr)
  | l (mk : Word → Instr)
  | rl (mk : RegField → Word → Instr)

/-- The length in bytes of a form (30_encoding.md R54, R61). -/
def Form.len : Form → Nat
  | .n _ => 1
  | .r _ => 2
  | .rr _ => 3
  | .l _ => 3
  | .rl _ => 4

/-- The opcode field of a first byte, bits 7 to 3 (30_encoding.md R52). -/
def opcodeOf (b0 : Byte) : Nat := b0.toNat / 8

/-- B, L and I of a first byte, bits 2 to 0, as one number B * 4 + L * 2 + I (30_encoding.md R52). -/
def flagBitsOf (b0 : Byte) : Nat := b0.toNat % 8

/-- The admitted forms of each opcode, by B * 4 + L * 2 + I (30_encoding.md R59); every other combination is illegal. -/
def legalForm (op bli : Nat) : Option Form :=
  match op with
  | 0x00 =>
    match bli with
    | 0b000 => some (.n .nop)
    | _ => none
  | 0x01 =>
    match bli with
    | 0b000 => some (.n .hlt)
    | _ => none
  | 0x02 =>
    match bli with
    | 0b000 => some (.rr .movRR)
    | 0b001 => some (.rr .movIndRR)
    | 0b010 => some (.rl .movRL)
    | 0b011 => some (.rl .movIndRL)
    | 0b100 => some (.rr .movBRR)
    | 0b101 => some (.rr .movBIndRR)
    | 0b110 => some (.rl .movBRL)
    | 0b111 => some (.rl .movBIndRL)
    | _ => none
  | 0x03 =>
    match bli with
    | 0b000 => some (.r .phrR)
    | _ => none
  | 0x04 =>
    match bli with
    | 0b000 => some (.r .plrR)
    | _ => none
  | 0x05 =>
    match bli with
    | 0b000 => some (.rr .addRR)
    | 0b010 => some (.rl .addRL)
    | 0b100 => some (.rr .addBRR)
    | 0b110 => some (.rl .addBRL)
    | _ => none
  | 0x06 =>
    match bli with
    | 0b000 => some (.rr .subRR)
    | 0b010 => some (.rl .subRL)
    | 0b100 => some (.rr .subBRR)
    | 0b110 => some (.rl .subBRL)
    | _ => none
  | 0x07 =>
    match bli with
    | 0b000 => some (.rr .mulRR)
    | 0b010 => some (.rl .mulRL)
    | 0b100 => some (.rr .mulBRR)
    | 0b110 => some (.rl .mulBRL)
    | _ => none
  | 0x08 =>
    match bli with
    | 0b000 => some (.rr .divRR)
    | 0b010 => some (.rl .divRL)
    | 0b100 => some (.rr .divBRR)
    | 0b110 => some (.rl .divBRL)
    | _ => none
  | 0x09 =>
    match bli with
    | 0b000 => some (.rr .modRR)
    | 0b010 => some (.rl .modRL)
    | 0b100 => some (.rr .modBRR)
    | 0b110 => some (.rl .modBRL)
    | _ => none
  | 0x0A =>
    match bli with
    | 0b000 => some (.r .incR)
    | 0b100 => some (.r .incBR)
    | _ => none
  | 0x0B =>
    match bli with
    | 0b000 => some (.r .decR)
    | 0b100 => some (.r .decBR)
    | _ => none
  | 0x0C =>
    match bli with
    | 0b000 => some (.rr .andRR)
    | 0b010 => some (.rl .andRL)
    | 0b100 => some (.rr .andBRR)
    | 0b110 => some (.rl .andBRL)
    | _ => none
  | 0x0D =>
    match bli with
    | 0b000 => some (.rr .orRR)
    | 0b010 => some (.rl .orRL)
    | 0b100 => some (.rr .orBRR)
    | 0b110 => some (.rl .orBRL)
    | _ => none
  | 0x0E =>
    match bli with
    | 0b000 => some (.rr .shlRR)
    | 0b010 => some (.rl .shlRL)
    | _ => none
  | 0x0F =>
    match bli with
    | 0b000 => some (.rr .shrRR)
    | 0b010 => some (.rl .shrRL)
    | _ => none
  | 0x10 =>
    match bli with
    | 0b000 => some (.r .notR)
    | 0b100 => some (.r .notBR)
    | _ => none
  | 0x11 =>
    match bli with
    | 0b000 => some (.rr .cmpRR)
    | 0b010 => some (.rl .cmpRL)
    | 0b100 => some (.rr .cmpBRR)
    | 0b110 => some (.rl .cmpBRL)
    | _ => none
  | 0x12 =>
    match bli with
    | 0b000 => some (.r .jmpR)
    | 0b010 => some (.l .jmpL)
    | _ => none
  | 0x13 =>
    match bli with
    | 0b000 => some (.r .jzR)
    | 0b010 => some (.l .jzL)
    | _ => none
  | 0x14 =>
    match bli with
    | 0b000 => some (.r .jnzR)
    | 0b010 => some (.l .jnzL)
    | _ => none
  | 0x15 =>
    match bli with
    | 0b000 => some (.r .jnR)
    | 0b010 => some (.l .jnL)
    | _ => none
  | 0x16 =>
    match bli with
    | 0b000 => some (.r .jnnR)
    | 0b010 => some (.l .jnnL)
    | _ => none
  | 0x17 =>
    match bli with
    | 0b000 => some (.r .jcR)
    | 0b010 => some (.l .jcL)
    | _ => none
  | 0x18 =>
    match bli with
    | 0b000 => some (.r .jncR)
    | 0b010 => some (.l .jncL)
    | _ => none
  | 0x19 =>
    match bli with
    | 0b010 => some (.l .jsbL)
    | _ => none
  | 0x1A =>
    match bli with
    | 0b000 => some (.n .rsb)
    | _ => none
  | 0x1B =>
    match bli with
    | 0b000 => some (.n .cli)
    | _ => none
  | 0x1C =>
    match bli with
    | 0b000 => some (.n .sei)
    | _ => none
  | 0x1D =>
    match bli with
    | 0b000 => some (.n .rsi)
    | _ => none
  | _ => none

/-- The form a first byte begins, or why it is illegal (30_encoding.md R60). -/
def formOf (b0 : Byte) : Except DecodeError Form :=
  match legalForm (opcodeOf b0) (flagBitsOf b0) with
  | some f => .ok f
  | none => if 0x1E ≤ opcodeOf b0 then .error .unassignedOpcode else .error .unlistedForm

/-- A literal from its two bytes, the high byte first (30_encoding.md R56). -/
def litOfBytes (hi lo : Byte) : Word := hi ++ lo

/-- The instruction a form makes of the bytes after the first, and the bytes that follow it (30_encoding.md R54, R55). -/
def decodeArgs : Form → List Byte → Except DecodeError (Instr × List Byte)
  | .n i, rest => .ok (i, rest)
  | .r mk, x :: rest => if RegField.Names x then .ok (mk x, rest) else .error .noSuchRegister
  | .rr mk, x :: y :: rest =>
    if RegField.Names x ∧ RegField.Names y then .ok (mk x y, rest) else .error .noSuchRegister
  | .l mk, hi :: lo :: rest => .ok (mk (litOfBytes hi lo), rest)
  | .rl mk, x :: hi :: lo :: rest =>
    if RegField.Names x then .ok (mk x (litOfBytes hi lo), rest) else .error .noSuchRegister
  | _, _ => .error .tooShort

/-- The instruction at the head of a byte sequence, and the bytes after it (30_encoding.md R50, R58 steps 3 and 4). -/
def decode : List Byte → Except DecodeError (Instr × List Byte)
  | [] => .error .tooShort
  | b0 :: rest =>
    match formOf b0 with
    | .error e => .error e
    | .ok f => decodeArgs f rest

/-- The length of the instruction a first byte begins (30_encoding.md R61). -/
def lengthOf (b0 : Byte) : Except DecodeError Nat :=
  match formOf b0 with
  | .error e => .error e
  | .ok f => .ok f.len

/-- The columns op, B, L, I of a row of the form table (30_encoding.md R59). -/
structure Row where
  op : Nat
  b : Nat
  l : Nat
  i : Nat
  deriving DecidableEq, Repr

/-- The row of each form (30_encoding.md R59). -/
def Instr.row : Instr → Row
  | .nop => ⟨0x00, 0, 0, 0⟩
  | .hlt => ⟨0x01, 0, 0, 0⟩
  | .movRR _ _ => ⟨0x02, 0, 0, 0⟩
  | .movRL _ _ => ⟨0x02, 0, 1, 0⟩
  | .movBRR _ _ => ⟨0x02, 1, 0, 0⟩
  | .movBRL _ _ => ⟨0x02, 1, 1, 0⟩
  | .movIndRR _ _ => ⟨0x02, 0, 0, 1⟩
  | .movIndRL _ _ => ⟨0x02, 0, 1, 1⟩
  | .movBIndRR _ _ => ⟨0x02, 1, 0, 1⟩
  | .movBIndRL _ _ => ⟨0x02, 1, 1, 1⟩
  | .phrR _ => ⟨0x03, 0, 0, 0⟩
  | .plrR _ => ⟨0x04, 0, 0, 0⟩
  | .addRR _ _ => ⟨0x05, 0, 0, 0⟩
  | .addRL _ _ => ⟨0x05, 0, 1, 0⟩
  | .addBRR _ _ => ⟨0x05, 1, 0, 0⟩
  | .addBRL _ _ => ⟨0x05, 1, 1, 0⟩
  | .subRR _ _ => ⟨0x06, 0, 0, 0⟩
  | .subRL _ _ => ⟨0x06, 0, 1, 0⟩
  | .subBRR _ _ => ⟨0x06, 1, 0, 0⟩
  | .subBRL _ _ => ⟨0x06, 1, 1, 0⟩
  | .mulRR _ _ => ⟨0x07, 0, 0, 0⟩
  | .mulRL _ _ => ⟨0x07, 0, 1, 0⟩
  | .mulBRR _ _ => ⟨0x07, 1, 0, 0⟩
  | .mulBRL _ _ => ⟨0x07, 1, 1, 0⟩
  | .divRR _ _ => ⟨0x08, 0, 0, 0⟩
  | .divRL _ _ => ⟨0x08, 0, 1, 0⟩
  | .divBRR _ _ => ⟨0x08, 1, 0, 0⟩
  | .divBRL _ _ => ⟨0x08, 1, 1, 0⟩
  | .modRR _ _ => ⟨0x09, 0, 0, 0⟩
  | .modRL _ _ => ⟨0x09, 0, 1, 0⟩
  | .modBRR _ _ => ⟨0x09, 1, 0, 0⟩
  | .modBRL _ _ => ⟨0x09, 1, 1, 0⟩
  | .incR _ => ⟨0x0A, 0, 0, 0⟩
  | .incBR _ => ⟨0x0A, 1, 0, 0⟩
  | .decR _ => ⟨0x0B, 0, 0, 0⟩
  | .decBR _ => ⟨0x0B, 1, 0, 0⟩
  | .andRR _ _ => ⟨0x0C, 0, 0, 0⟩
  | .andRL _ _ => ⟨0x0C, 0, 1, 0⟩
  | .andBRR _ _ => ⟨0x0C, 1, 0, 0⟩
  | .andBRL _ _ => ⟨0x0C, 1, 1, 0⟩
  | .orRR _ _ => ⟨0x0D, 0, 0, 0⟩
  | .orRL _ _ => ⟨0x0D, 0, 1, 0⟩
  | .orBRR _ _ => ⟨0x0D, 1, 0, 0⟩
  | .orBRL _ _ => ⟨0x0D, 1, 1, 0⟩
  | .shlRR _ _ => ⟨0x0E, 0, 0, 0⟩
  | .shlRL _ _ => ⟨0x0E, 0, 1, 0⟩
  | .shrRR _ _ => ⟨0x0F, 0, 0, 0⟩
  | .shrRL _ _ => ⟨0x0F, 0, 1, 0⟩
  | .notR _ => ⟨0x10, 0, 0, 0⟩
  | .notBR _ => ⟨0x10, 1, 0, 0⟩
  | .cmpRR _ _ => ⟨0x11, 0, 0, 0⟩
  | .cmpRL _ _ => ⟨0x11, 0, 1, 0⟩
  | .cmpBRR _ _ => ⟨0x11, 1, 0, 0⟩
  | .cmpBRL _ _ => ⟨0x11, 1, 1, 0⟩
  | .jmpR _ => ⟨0x12, 0, 0, 0⟩
  | .jmpL _ => ⟨0x12, 0, 1, 0⟩
  | .jzR _ => ⟨0x13, 0, 0, 0⟩
  | .jzL _ => ⟨0x13, 0, 1, 0⟩
  | .jnzR _ => ⟨0x14, 0, 0, 0⟩
  | .jnzL _ => ⟨0x14, 0, 1, 0⟩
  | .jnR _ => ⟨0x15, 0, 0, 0⟩
  | .jnL _ => ⟨0x15, 0, 1, 0⟩
  | .jnnR _ => ⟨0x16, 0, 0, 0⟩
  | .jnnL _ => ⟨0x16, 0, 1, 0⟩
  | .jcR _ => ⟨0x17, 0, 0, 0⟩
  | .jcL _ => ⟨0x17, 0, 1, 0⟩
  | .jncR _ => ⟨0x18, 0, 0, 0⟩
  | .jncL _ => ⟨0x18, 0, 1, 0⟩
  | .jsbL _ => ⟨0x19, 0, 1, 0⟩
  | .rsb => ⟨0x1A, 0, 0, 0⟩
  | .cli => ⟨0x1B, 0, 0, 0⟩
  | .sei => ⟨0x1C, 0, 0, 0⟩
  | .rsi => ⟨0x1D, 0, 0, 0⟩

/-- The first byte of a row: `opcode * 8 + B * 4 + L * 2 + I` (30_encoding.md R52). -/
def Row.firstByte (w : Row) : Byte := BitVec.ofNat 8 (w.op * 8 + w.b * 4 + w.l * 2 + w.i)

/-- The two bytes of a literal, the high byte first (30_encoding.md R56). -/
def litBytes (k : Word) : List Byte := [k.extractLsb' 8 8, k.extractLsb' 0 8]

/-- The bytes after the first: ARG 1, then ARG 2, with no padding (30_encoding.md R54). -/
def Args.bytes : Args → List Byte
  | .none => []
  | .reg r1 => [r1]
  | .regReg r1 r2 => [r1, r2]
  | .lit k => litBytes k
  | .regLit r1 k => r1 :: litBytes k

/-- The bytes of an instruction, at ascending addresses (30_encoding.md R50, R54). -/
def encode (i : Instr) : List Byte := i.row.firstByte :: i.args.bytes

/-- The lowest `n` bytes of a number, the most significant first. -/
def bigEndianBytes : Nat → Nat → List Byte
  | 0, _ => []
  | n + 1, w => BitVec.ofNat 8 (w / 256 ^ n) :: bigEndianBytes n w

/-- Leading zero bytes dropped, but never the last byte. -/
def dropLeadingZeros : List Byte → List Byte
  | [] => []
  | [b] => [b]
  | b :: c :: rest => if b = 0 then dropLeadingZeros (c :: rest) else b :: c :: rest

/-- The bytes of an instruction that opcode_table.json writes as a number of `nbits` bits: a big-endian number, the
first byte most significant (30_encoding.md R65), then zeros up to the longest instruction, 4 bytes. No form of more
than one byte begins with a zero byte, so leading zero bytes are not part of the number's instruction (log entry 10). -/
def tableWordBytes (nbits w : Nat) : List Byte :=
  let bs := dropLeadingZeros (bigEndianBytes (nbits / 8) w)
  bs ++ List.replicate (4 - bs.length) 0

/-- The instruction the decoder reads from a number of opcode_table.json (30_encoding.md R65; log entry 10). -/
def decodeTableWord (nbits w : Nat) : Option Instr :=
  match decode (tableWordBytes nbits w) with
  | .ok (i, _) => some i
  | .error _ => none

end Sys2Proof
end

