-- ==== Sys2Proof/Machine/Fetch.lean ====
section
/-! DEFINITION. Fetching an instruction (30_encoding.md R58 steps 3 to 5), and placing one where it is fetched. -/

namespace Sys2Proof.Machine

/-- A fetched instruction, and the state it is executed on: its bytes read, the PC past them. -/
structure Fetched where
  instr : Instr
  state : State
  deriving DecidableEq, Repr

/-- The PC past an instruction of `len` bytes at address `a`, modulo 2^16 (10_state.md R14). -/
def advancePc (s : State) (a : Word) (len : Nat) : State := s.setReg Reg.pc (a + BitVec.ofNat 16 len)

/-- Fetch and decode at the PC: the first byte gives the length, the rest is read in ascending order, the Reg fields are
checked, the PC moves past the instruction (30_encoding.md R58 steps 3 to 5). No byte past the instruction is read. -/
def fetch (s : State) : Except DecodeError Fetched :=
  let a := s.reg Reg.pc
  let b0 := readByte s a
  match lengthOf b0.1 with
  | .error e => .error e
  | .ok len =>
    let rest := readBytes (len - 1) (a + 1#16) b0.2
    match decode (b0.1 :: rest.1) with
    | .error e => .error e
    | .ok (i, _) => .ok ⟨i, advancePc rest.2 a len⟩

/-- Bytes listed at ascending addresses, each modulo 2^16, in ROM or RAM; the device region stores none. -/
def placeBytes : List Byte → Word → Memory → Memory
  | [], _, m => m
  | b :: bs, a, m =>
    placeBytes bs (a + 1#16) (if regionOf a = .devices then m else Memory.put m a.toNat b)

/-- The processor running, and no interrupt about to be taken: H cleared and, where interrupts are enabled, IP cleared and
no request scheduled, so that the next step fetches (30_encoding.md R58 steps 1 and 2). Nothing changes where that is so
already, as at reset. -/
def aboutToFetch (s : State) : State :=
  let running := s.setFlag .h false
  if running.flag .id then running else { running.setFlag .ip false with requests := [] }

end Sys2Proof.Machine
end

