-- ==== Sys2Proof/Machine/Step.lean ====
section
/-! DEFINITION. One step of the machine (30_encoding.md R58), and an instruction placed where the next step fetches. -/

namespace Sys2Proof.Machine

/-- One step of the processor, after the environment's move at the boundary before it (60_exceptions.md R144). A halted
processor takes no step: only the environment has moved (40_control.md R71; log entry 8). A pending, enabled interrupt is
taken before anything is fetched (60_exceptions.md R145, R148). Otherwise the instruction at the PC is fetched, decoded and
executed; a fault has no successor state (60_exceptions.md R141). -/
def step (s : State) : Host.Outcome State Fault Refusal :=
  let s := environmentMoves s
  if s.flag .h then .next s
  else if s.takesInterrupt then interruptEntry s
  else
    match fetch s with
    | .error _ => .fault .illegalInstruction
    | .ok f => exec f.instr f.state

/-- `s` with the instruction that opcode_table.json writes as the `nbits`-bit number `w` (30_encoding.md R65) in memory at
the PC, followed by zeros up to 4 bytes. It stands for the loading of ROM_IMAGE from outside (log entries 3 and 11). -/
def State.withFetchWord (s : State) (nbits w : Nat) : State :=
  let r := aboutToFetch s
  { r with mem := placeBytes (tableWordBytes nbits w) (r.reg Reg.pc) r.mem }

end Sys2Proof.Machine
end

