-- ==== Sys2Proof/Safety.lean ====
section
/-! DEFINITION. The terms in which statements about the machine are made: the regions by their bounds, what a read sees, what
an instruction keeps and stores, how it completes, and the invariant of the state. -/

namespace Sys2Proof.Machine

/-! ## Addresses, by the bounds of 20_memory.md R31 -/

/-- An address of the ROM, 0x0000 to 0x7FFF. -/
abbrev IsRom (a : Word) : Prop := a.toNat ≤ 0x7FFF

/-- An address of the RAM, 0x8000 to 0xEFFF. -/
abbrev IsRam (a : Word) : Prop := 0x8000 ≤ a.toNat ∧ a.toNat ≤ 0xEFFF

/-- An address of the devices, 0xF000 to 0xFFFF. -/
abbrev IsDevice (a : Word) : Prop := 0xF000 ≤ a.toNat

/-! ## What a read sees (20_memory.md R36), given the accesses `log` made to the devices before it -/

/-- The byte a read of an address sees. -/
def byteSeen (s : State) (log : List DevEvent) (a : Word) : Byte :=
  if IsDevice a then Config.devRead log a else s.stored a

/-- The accesses made to the devices once the byte is read. -/
def logAfter (log : List DevEvent) (a : Word) : List DevEvent := if IsDevice a then log ++ [.read a] else log

/-- The word a read of two bytes sees, the byte at the lower address first and high. -/
def wordSeen (s : State) (log : List DevEvent) (a : Word) : Word :=
  byteSeen s log a ++ byteSeen s (logAfter log a) (a + 1#16)

/-- The accesses made to the devices once the word is read. -/
def logAfterWord (log : List DevEvent) (a : Word) : List DevEvent := logAfter (logAfter log a) (a + 1#16)

/-! ## Frames -/

/-- Every register but those named holds what it held. -/
def KeepsRegs (s t : State) (written : List Reg) : Prop := ∀ r, r ∉ written → t.reg r = s.reg r

/-- Every bit of FLAGS but the flags named is what it was, the reserved bits among them. -/
def KeepsFlags (s t : State) (written : List Flag) : Prop :=
  ∀ k, k < 8 → (∀ f ∈ written, f.pos ≠ k) → t.flags.getLsbD k = s.flags.getLsbD k

/-- Every byte of ROM and RAM reads as it did. -/
def KeepsMemory (s t : State) : Prop := ∀ a, t.stored a = s.stored a

/-- No access to the devices, and the environment's schedule untouched. -/
def KeepsOutside (s t : State) : Prop := t.devLog = s.devLog ∧ t.requests = s.requests

/-- The device writes that the bytes written make, in the order given (20_memory.md R35). -/
def writeEvents : List (Word × Byte) → List DevEvent
  | [] => []
  | (a, b) :: rest => if IsDevice a then .write a b :: writeEvents rest else writeEvents rest

/-- The bytes given, and no others, are written, in that order: those in RAM are stored, those in the device region are
emitted, every other byte of ROM and RAM reads as it did (20_memory.md R35, R37). -/
def StoresOnly (s t : State) (bytes : List (Word × Byte)) : Prop :=
  (∀ p ∈ bytes, IsRam p.1 → t.stored p.1 = p.2) ∧
  (∀ a, (∀ p ∈ bytes, p.1 ≠ a) → t.stored a = s.stored a) ∧
  t.devLog = s.devLog ++ writeEvents bytes ∧ t.requests = s.requests

/-! ## Outcomes -/

/-- The outcome is a next state, and of it `P` holds. -/
def Completes (o : Host.Outcome State Fault Refusal) (P : State → Prop) : Prop := ∃ t, o = .next t ∧ P t

/-- The outcome is a next state in which register `d` holds the `bits`-bit result `r` zero-extended, Z and N tell of `r`
(10_state.md R19), C is `c`, and nothing else has changed. -/
def CompletesWithResult (o : Host.Outcome State Fault Refusal) (s : State) (d : Reg) (bits r : Nat) (c : Bool) : Prop :=
  Completes o fun t =>
    t.reg d = BitVec.ofNat 16 r ∧ t.flag .z = decide (r = 0) ∧ t.flag .n = r.testBit (bits - 1) ∧ t.flag .c = c ∧
    KeepsRegs s t [d] ∧ KeepsFlags s t [.z, .n, .c] ∧ KeepsMemory s t ∧ KeepsOutside s t

/-- The outcome is a next state in which register `d` holds `v` and nothing else has changed. For the PC: control is at `v`,
and nothing else has changed. -/
def CompletesSetting (o : Host.Outcome State Fault Refusal) (s : State) (d : Reg) (v : Word) : Prop :=
  Completes o fun t =>
    t.reg d = v ∧ KeepsRegs s t [d] ∧ KeepsFlags s t [] ∧ KeepsMemory s t ∧ KeepsOutside s t

/-- The outcome is a next state in which Z, C and N tell of the `bits`-bit difference of `a` and `b` (44_comparison.md) and
nothing else has changed. -/
def CompletesComparing (o : Host.Outcome State Fault Refusal) (s : State) (bits a b : Nat) : Prop :=
  Completes o fun t =>
    t.flag .z = decide (a = b) ∧ t.flag .c = decide (a < b) ∧
    t.flag .n = ((2 ^ bits + a - b) % 2 ^ bits).testBit (bits - 1) ∧
    KeepsRegs s t [] ∧ KeepsFlags s t [.z, .n, .c] ∧ KeepsMemory s t ∧ KeepsOutside s t

/-- The outcome is a next state in which the given bytes are written, in that order, and nothing else has changed. -/
def CompletesStoring (o : Host.Outcome State Fault Refusal) (s : State) (bytes : List (Word × Byte)) : Prop :=
  Completes o fun t => KeepsRegs s t [] ∧ KeepsFlags s t [] ∧ StoresOnly s t bytes

/-- The outcome is a next state in which `v` has been pushed: SP is 2 lower, the word stands there, its high byte at the lower
address; besides, the registers of `others` may have changed, and nothing else has. -/
def CompletesPushing (o : Host.Outcome State Fault Refusal) (s : State) (v : Word) (others : List Reg)
    (P : State → Prop) : Prop :=
  Completes o fun t =>
    P t ∧ t.reg Reg.sp = s.reg Reg.sp - 2#16 ∧ KeepsRegs s t (Reg.sp :: others) ∧ KeepsFlags s t [] ∧
    StoresOnly s t [(s.reg Reg.sp - 2#16, v.extractLsb' 8 8), (s.reg Reg.sp - 1#16, v.extractLsb' 0 8)]

/-! ## The invariant -/

/-- The memory is in canonical form, and the reserved bits of FLAGS are 0 (10_state.md R17; log entry 12). -/
def Inv (s : State) : Prop :=
  Memory.wf s.mem = true ∧ s.flags.getLsbD 5 = false ∧ s.flags.getLsbD 6 = false

end Sys2Proof.Machine
end

