-- ==== Sys2Proof/Certificates/Slice0/Obligations.lean ====
section
/-! DEFINITION. The statements for the provers. Each docstring names the text of spec/ it formalises and, where the spec marks
that text as its own derivation or decision, says so. -/

open Sys2Proof Sys2Proof.Machine

/-- NOP (40_control.md, NOP): nothing but the step's own advance of the PC. The spec derives it from "No Operation". -/
def Obligations.NopChangesNothing : Prop :=
  ∀ s : State, exec .nop s = .next s

/-- HLT (40_control.md, HLT): `H <- 1`, no other flag. The spec derives it from the two names. -/
def Obligations.HltSetsHaltOnly : Prop :=
  ∀ s : State, Completes (exec .hlt s) fun t =>
    t.flag .h = true ∧ KeepsRegs s t [] ∧ KeepsFlags s t [.h] ∧ KeepsMemory s t ∧ KeepsOutside s t

/-- MOV with I = 0 (41_data_transfer.md section 1, the text of rule R75). The spec marks these as its own decisions:
92_eei_decisions.md D13, 92_eei_decisions.md D14. -/
def Obligations.MovCopiesToRegister : Prop :=
  ∀ (s : State) (d e : Reg) (k : Word),
    CompletesSetting (exec (.movRR d.field e.field) s) s d (s.reg e) ∧
    CompletesSetting (exec (.movRL d.field k) s) s d k ∧
    CompletesSetting (exec (.movBRR d.field e.field) s) s d (BitVec.ofNat 16 ((s.reg e).toNat % 256)) ∧
    CompletesSetting (exec (.movBRL d.field k) s) s d (BitVec.ofNat 16 (k.toNat % 256))

/-- MOV with I = 1, B = 0 (41_data_transfer.md section 1, the text of rule R76; 20_memory.md R37). The spec marks
these as its own decisions: 92_eei_decisions.md D6, 92_eei_decisions.md D8, 92_eei_decisions.md D32. -/
def Obligations.MovStoresWord : Prop :=
  ∀ (s : State) (d e : Reg) (k : Word), ¬IsRom (s.reg d) → ¬IsRom (s.reg d + 1#16) →
    CompletesStoring (exec (.movIndRR d.field e.field) s) s
      [(s.reg d, (s.reg e).extractLsb' 8 8), (s.reg d + 1#16, (s.reg e).extractLsb' 0 8)] ∧
    CompletesStoring (exec (.movIndRL d.field k) s) s
      [(s.reg d, k.extractLsb' 8 8), (s.reg d + 1#16, k.extractLsb' 0 8)]

/-- MOV with I = 1, B = 1 (41_data_transfer.md section 1, the text of rule R76; 20_memory.md R37). The spec marks
these as its own decisions: 92_eei_decisions.md D8, 92_eei_decisions.md D32. -/
def Obligations.MovStoresByte : Prop :=
  ∀ (s : State) (d e : Reg) (k : Word), ¬IsRom (s.reg d) →
    CompletesStoring (exec (.movBIndRR d.field e.field) s) s [(s.reg d, (s.reg e).extractLsb' 0 8)] ∧
    CompletesStoring (exec (.movBIndRL d.field k) s) s [(s.reg d, k.extractLsb' 0 8)]

/-- A write any of whose bytes lies in ROM (20_memory.md, the text of rules R33 and R37). The spec marks these as
its own decisions: 92_eei_decisions.md D8. -/
def Obligations.StoreToRomFaults : Prop :=
  ∀ (s : State) (d e : Reg) (k : Word),
    (IsRom (s.reg d) ∨ IsRom (s.reg d + 1#16) →
      exec (.movIndRR d.field e.field) s = .fault .romWrite ∧ exec (.movIndRL d.field k) s = .fault .romWrite) ∧
    (IsRom (s.reg d) →
      exec (.movBIndRR d.field e.field) s = .fault .romWrite ∧ exec (.movBIndRL d.field k) s = .fault .romWrite)

/-- PHR (41_data_transfer.md section 2, the text of rules R78 and R80). The spec marks these as its own decisions:
92_eei_decisions.md D14, 92_eei_decisions.md D19. -/
def Obligations.PhrPushesRegister : Prop :=
  ∀ (s : State) (r : Reg), ¬IsRom (s.reg Reg.sp - 2#16) → ¬IsRom (s.reg Reg.sp - 1#16) →
    CompletesPushing (exec (.phrR r.field) s) s (s.reg r) [] fun _ => True

/-- A push into ROM (41_data_transfer.md section 2, the text of rule R78). The spec marks these as its own
decisions: 92_eei_decisions.md D8, 92_eei_decisions.md D19. -/
def Obligations.PushIntoRomFaults : Prop :=
  ∀ (s : State) (r : Reg) (k : Word), IsRom (s.reg Reg.sp - 2#16) ∨ IsRom (s.reg Reg.sp - 1#16) →
    exec (.phrR r.field) s = .fault .romWrite ∧ exec (.jsbL k) s = .fault .romWrite

/-- PLR (41_data_transfer.md section 2, the text of rules R79 and R81). The spec marks these as its own decisions:
92_eei_decisions.md D9, 92_eei_decisions.md D14, 92_eei_decisions.md D19. -/
def Obligations.PlrPullsRegister : Prop :=
  ∀ (s : State) (d : Reg), Completes (exec (.plrR d.field) s) fun t =>
    t.reg d = wordSeen s s.devLog (s.reg Reg.sp) ∧ (d ≠ Reg.sp → t.reg Reg.sp = s.reg Reg.sp + 2#16) ∧
    KeepsRegs s t [d, Reg.sp] ∧ KeepsFlags s t [] ∧ KeepsMemory s t ∧
    t.devLog = logAfterWord s.devLog (s.reg Reg.sp) ∧ t.requests = s.requests

/-- ADD (42_arithmetic.md section 1, the text of rule R85). The spec marks these as its own decisions:
92_eei_decisions.md D13, 92_eei_decisions.md D14. -/
def Obligations.AddComputes : Prop :=
  ∀ (s : State) (d e : Reg) (k : Word),
    let a := (s.reg d).toNat
    let b := (s.reg e).toNat
    let l := k.toNat
    CompletesWithResult (exec (.addRR d.field e.field) s) s d 16 ((a + b) % 65536) (decide (65536 ≤ a + b)) ∧
    CompletesWithResult (exec (.addRL d.field k) s) s d 16 ((a + l) % 65536) (decide (65536 ≤ a + l)) ∧
    CompletesWithResult (exec (.addBRR d.field e.field) s) s d 8 (((a % 256) + (b % 256)) % 256) (decide (256 ≤ (a % 256) + (b % 256))) ∧
    CompletesWithResult (exec (.addBRL d.field k) s) s d 8 (((a % 256) + (l % 256)) % 256) (decide (256 ≤ (a % 256) + (l % 256)))

/-- SUB (42_arithmetic.md section 1, the text of rule R86). The spec marks these as its own decisions:
92_eei_decisions.md D13, 92_eei_decisions.md D14. -/
def Obligations.SubComputes : Prop :=
  ∀ (s : State) (d e : Reg) (k : Word),
    let a := (s.reg d).toNat
    let b := (s.reg e).toNat
    let l := k.toNat
    CompletesWithResult (exec (.subRR d.field e.field) s) s d 16 ((65536 + a - b) % 65536) (decide (a < b)) ∧
    CompletesWithResult (exec (.subRL d.field k) s) s d 16 ((65536 + a - l) % 65536) (decide (a < l)) ∧
    CompletesWithResult (exec (.subBRR d.field e.field) s) s d 8 ((256 + (a % 256) - (b % 256)) % 256) (decide ((a % 256) < (b % 256))) ∧
    CompletesWithResult (exec (.subBRL d.field k) s) s d 8 ((256 + (a % 256) - (l % 256)) % 256) (decide ((a % 256) < (l % 256)))

/-- MUL (42_arithmetic.md section 1, the text of rule R87). The spec marks these as its own decisions:
92_eei_decisions.md D14, 92_eei_decisions.md D16. -/
def Obligations.MulComputes : Prop :=
  ∀ (s : State) (d e : Reg) (k : Word),
    let a := (s.reg d).toNat
    let b := (s.reg e).toNat
    let l := k.toNat
    CompletesWithResult (exec (.mulRR d.field e.field) s) s d 16 (a * b % 65536) (decide (65536 ≤ a * b)) ∧
    CompletesWithResult (exec (.mulRL d.field k) s) s d 16 (a * l % 65536) (decide (65536 ≤ a * l)) ∧
    CompletesWithResult (exec (.mulBRR d.field e.field) s) s d 8 ((a % 256) * (b % 256) % 256) (decide (256 ≤ (a % 256) * (b % 256))) ∧
    CompletesWithResult (exec (.mulBRL d.field k) s) s d 8 ((a % 256) * (l % 256) % 256) (decide (256 ≤ (a % 256) * (l % 256)))

/-- DIV (42_arithmetic.md section 1, the text of rule R88). The spec marks these as its own decisions:
92_eei_decisions.md D14, 92_eei_decisions.md D15, 92_eei_decisions.md D16. -/
def Obligations.DivComputes : Prop :=
  ∀ (s : State) (d e : Reg) (k : Word),
    let a := (s.reg d).toNat
    let b := (s.reg e).toNat
    let l := k.toNat
    (b ≠ 0 →
      CompletesWithResult (exec (.divRR d.field e.field) s) s d 16 (a / b) (s.flag .c)) ∧
    (l ≠ 0 →
      CompletesWithResult (exec (.divRL d.field k) s) s d 16 (a / l) (s.flag .c)) ∧
    ((b % 256) ≠ 0 →
      CompletesWithResult (exec (.divBRR d.field e.field) s) s d 8 ((a % 256) / (b % 256)) (s.flag .c)) ∧
    ((l % 256) ≠ 0 →
      CompletesWithResult (exec (.divBRL d.field k) s) s d 8 ((a % 256) / (l % 256)) (s.flag .c))

/-- MOD (42_arithmetic.md section 1, the text of rule R89). The spec marks these as its own decisions:
92_eei_decisions.md D14, 92_eei_decisions.md D15, 92_eei_decisions.md D16. -/
def Obligations.ModComputes : Prop :=
  ∀ (s : State) (d e : Reg) (k : Word),
    let a := (s.reg d).toNat
    let b := (s.reg e).toNat
    let l := k.toNat
    (b ≠ 0 →
      CompletesWithResult (exec (.modRR d.field e.field) s) s d 16 (a % b) (s.flag .c)) ∧
    (l ≠ 0 →
      CompletesWithResult (exec (.modRL d.field k) s) s d 16 (a % l) (s.flag .c)) ∧
    ((b % 256) ≠ 0 →
      CompletesWithResult (exec (.modBRR d.field e.field) s) s d 8 ((a % 256) % (b % 256)) (s.flag .c)) ∧
    ((l % 256) ≠ 0 →
      CompletesWithResult (exec (.modBRL d.field k) s) s d 8 ((a % 256) % (l % 256)) (s.flag .c))

/-- Division by zero (42_arithmetic.md section 1, the text of rules R88 and R89). The spec marks these as its own
decisions: 92_eei_decisions.md D15. -/
def Obligations.DivisionByZeroFaults : Prop :=
  ∀ (s : State) (d e : Reg) (k : Word),
    ((s.reg e).toNat = 0 → exec (.divRR d.field e.field) s = .fault .divideByZero) ∧
    (k.toNat = 0 → exec (.divRL d.field k) s = .fault .divideByZero) ∧
    ((s.reg e).toNat % 256 = 0 → exec (.divBRR d.field e.field) s = .fault .divideByZero) ∧
    (k.toNat % 256 = 0 → exec (.divBRL d.field k) s = .fault .divideByZero) ∧
    ((s.reg e).toNat = 0 → exec (.modRR d.field e.field) s = .fault .divideByZero) ∧
    (k.toNat = 0 → exec (.modRL d.field k) s = .fault .divideByZero) ∧
    ((s.reg e).toNat % 256 = 0 → exec (.modBRR d.field e.field) s = .fault .divideByZero) ∧
    (k.toNat % 256 = 0 → exec (.modBRL d.field k) s = .fault .divideByZero)

/-- INC (42_arithmetic.md section 2, the text of rule R90). The spec marks these as its own decisions:
92_eei_decisions.md D13, 92_eei_decisions.md D14. -/
def Obligations.IncComputes : Prop :=
  ∀ (s : State) (d : Reg),
    let a := (s.reg d).toNat
    CompletesWithResult (exec (.incR d.field) s) s d 16 ((a + 1) % 65536) (decide (a = 65535)) ∧
    CompletesWithResult (exec (.incBR d.field) s) s d 8 (((a % 256) + 1) % 256) (decide ((a % 256) = 255))

/-- DEC (42_arithmetic.md section 2, the text of rule R91). The spec marks these as its own decisions:
92_eei_decisions.md D13, 92_eei_decisions.md D14. -/
def Obligations.DecComputes : Prop :=
  ∀ (s : State) (d : Reg),
    let a := (s.reg d).toNat
    CompletesWithResult (exec (.decR d.field) s) s d 16 ((a + 65535) % 65536) (decide (a = 0)) ∧
    CompletesWithResult (exec (.decBR d.field) s) s d 8 (((a % 256) + 255) % 256) (decide ((a % 256) = 0))

/-- AND (43_logic.md, the text of rule R100). The spec marks these as its own decisions: 92_eei_decisions.md D13,
92_eei_decisions.md D14. -/
def Obligations.AndComputes : Prop :=
  ∀ (s : State) (d e : Reg) (k : Word),
    let a := (s.reg d).toNat
    let b := (s.reg e).toNat
    let l := k.toNat
    CompletesWithResult (exec (.andRR d.field e.field) s) s d 16 (a &&& b) (s.flag .c) ∧
    CompletesWithResult (exec (.andRL d.field k) s) s d 16 (a &&& l) (s.flag .c) ∧
    CompletesWithResult (exec (.andBRR d.field e.field) s) s d 8 ((a % 256) &&& (b % 256)) (s.flag .c) ∧
    CompletesWithResult (exec (.andBRL d.field k) s) s d 8 ((a % 256) &&& (l % 256)) (s.flag .c)

/-- OR (43_logic.md, the text of rule R101). The spec marks these as its own decisions: 92_eei_decisions.md D13,
92_eei_decisions.md D14. -/
def Obligations.OrComputes : Prop :=
  ∀ (s : State) (d e : Reg) (k : Word),
    let a := (s.reg d).toNat
    let b := (s.reg e).toNat
    let l := k.toNat
    CompletesWithResult (exec (.orRR d.field e.field) s) s d 16 (a ||| b) (s.flag .c) ∧
    CompletesWithResult (exec (.orRL d.field k) s) s d 16 (a ||| l) (s.flag .c) ∧
    CompletesWithResult (exec (.orBRR d.field e.field) s) s d 8 ((a % 256) ||| (b % 256)) (s.flag .c) ∧
    CompletesWithResult (exec (.orBRL d.field k) s) s d 8 ((a % 256) ||| (l % 256)) (s.flag .c)

/-- SHL (43_logic.md, the text of rule R102). The spec marks these as its own decisions: 92_eei_decisions.md D14,
92_eei_decisions.md D17. -/
def Obligations.ShlComputes : Prop :=
  ∀ (s : State) (d e : Reg) (k : Word),
    let a := (s.reg d).toNat
    let value := fun n : Nat => if n ≤ 16 then a * 2 ^ n % 65536 else 0
    let carry := fun n : Nat => if n = 0 then s.flag .c else if n ≤ 16 then a.testBit (16 - n) else false
    CompletesWithResult (exec (.shlRR d.field e.field) s) s d 16 (value (s.reg e).toNat) (carry (s.reg e).toNat) ∧
    CompletesWithResult (exec (.shlRL d.field k) s) s d 16 (value k.toNat) (carry k.toNat)

/-- SHR (43_logic.md, the text of rule R103). The spec marks these as its own decisions: 92_eei_decisions.md D14,
92_eei_decisions.md D17. -/
def Obligations.ShrComputes : Prop :=
  ∀ (s : State) (d e : Reg) (k : Word),
    let a := (s.reg d).toNat
    let value := fun n : Nat => if n ≤ 16 then a / 2 ^ n else 0
    let carry := fun n : Nat => if n = 0 then s.flag .c else if n ≤ 16 then a.testBit (n - 1) else false
    CompletesWithResult (exec (.shrRR d.field e.field) s) s d 16 (value (s.reg e).toNat) (carry (s.reg e).toNat) ∧
    CompletesWithResult (exec (.shrRL d.field k) s) s d 16 (value k.toNat) (carry k.toNat)

/-- NOT (43_logic.md, the text of rule R104). The spec marks these as its own decisions: 92_eei_decisions.md D13,
92_eei_decisions.md D14. -/
def Obligations.NotComputes : Prop :=
  ∀ (s : State) (d : Reg),
    let a := (s.reg d).toNat
    CompletesWithResult (exec (.notR d.field) s) s d 16 (65535 - a) (s.flag .c) ∧
    CompletesWithResult (exec (.notBR d.field) s) s d 8 (255 - (a % 256)) (s.flag .c)

/-- CMP (44_comparison.md, the text of rule R110). The spec marks these as its own decisions: 92_eei_decisions.md
D14, 92_eei_decisions.md D35. -/
def Obligations.CmpSetsFlagsOnly : Prop :=
  ∀ (s : State) (d e : Reg) (k : Word),
    CompletesComparing (exec (.cmpRR d.field e.field) s) s 16 (s.reg d).toNat (s.reg e).toNat ∧
    CompletesComparing (exec (.cmpRL d.field k) s) s 16 (s.reg d).toNat k.toNat ∧
    CompletesComparing (exec (.cmpBRR d.field e.field) s) s 8 ((s.reg d).toNat % 256) ((s.reg e).toNat % 256) ∧
    CompletesComparing (exec (.cmpBRL d.field k) s) s 8 ((s.reg d).toNat % 256) (k.toNat % 256)

/-- JMP (45_control_flow.md section 1, the text of rule R113). The spec marks these as its own decisions:
92_eei_decisions.md D18. -/
def Obligations.JmpGoesToTarget : Prop :=
  ∀ (s : State) (r : Reg) (k : Word),
    CompletesSetting (exec (.jmpR r.field) s) s Reg.pc (s.reg r) ∧
    CompletesSetting (exec (.jmpL k) s) s Reg.pc (k)

/-- JZ, JNZ (45_control_flow.md section 1, the text of rules R114 and R115). The spec derives the test from the
names. The spec marks these as its own decisions: 92_eei_decisions.md D18. -/
def Obligations.JzJnzTestZero : Prop :=
  ∀ (s : State) (r : Reg) (k : Word),
    CompletesSetting (exec (.jzR r.field) s) s Reg.pc (if s.flag .z = true then s.reg r else s.reg Reg.pc) ∧
    CompletesSetting (exec (.jzL k) s) s Reg.pc (if s.flag .z = true then k else s.reg Reg.pc) ∧
    CompletesSetting (exec (.jnzR r.field) s) s Reg.pc (if s.flag .z = false then s.reg r else s.reg Reg.pc) ∧
    CompletesSetting (exec (.jnzL k) s) s Reg.pc (if s.flag .z = false then k else s.reg Reg.pc)

/-- JN, JNN (45_control_flow.md section 1, the text of rules R116 and R117). The spec derives the test from the
names. The spec marks these as its own decisions: 92_eei_decisions.md D18. -/
def Obligations.JnJnnTestNegative : Prop :=
  ∀ (s : State) (r : Reg) (k : Word),
    CompletesSetting (exec (.jnR r.field) s) s Reg.pc (if s.flag .n = true then s.reg r else s.reg Reg.pc) ∧
    CompletesSetting (exec (.jnL k) s) s Reg.pc (if s.flag .n = true then k else s.reg Reg.pc) ∧
    CompletesSetting (exec (.jnnR r.field) s) s Reg.pc (if s.flag .n = false then s.reg r else s.reg Reg.pc) ∧
    CompletesSetting (exec (.jnnL k) s) s Reg.pc (if s.flag .n = false then k else s.reg Reg.pc)

/-- JC, JNC (45_control_flow.md section 1, the text of rules R118 and R119). The spec derives the test from the
names. The spec marks these as its own decisions: 92_eei_decisions.md D18. -/
def Obligations.JcJncTestCarry : Prop :=
  ∀ (s : State) (r : Reg) (k : Word),
    CompletesSetting (exec (.jcR r.field) s) s Reg.pc (if s.flag .c = true then s.reg r else s.reg Reg.pc) ∧
    CompletesSetting (exec (.jcL k) s) s Reg.pc (if s.flag .c = true then k else s.reg Reg.pc) ∧
    CompletesSetting (exec (.jncR r.field) s) s Reg.pc (if s.flag .c = false then s.reg r else s.reg Reg.pc) ∧
    CompletesSetting (exec (.jncL k) s) s Reg.pc (if s.flag .c = false then k else s.reg Reg.pc)

/-- JSB (45_control_flow.md section 2, the text of rule R120). The spec marks these as its own decisions:
92_eei_decisions.md D18, 92_eei_decisions.md D19, 92_eei_decisions.md D20. -/
def Obligations.JsbPushesAndJumps : Prop :=
  ∀ (s : State) (k : Word), ¬IsRom (s.reg Reg.sp - 2#16) → ¬IsRom (s.reg Reg.sp - 1#16) →
    CompletesPushing (exec (.jsbL k) s) s (s.reg Reg.pc) [Reg.pc] fun t => t.reg Reg.pc = k

/-- RSB (45_control_flow.md section 2, the text of rule R121). The spec marks these as its own decisions:
92_eei_decisions.md D19, 92_eei_decisions.md D20. -/
def Obligations.RsbPullsPc : Prop :=
  ∀ s : State, Completes (exec .rsb s) fun t =>
    t.reg Reg.pc = wordSeen s s.devLog (s.reg Reg.sp) ∧ t.reg Reg.sp = s.reg Reg.sp + 2#16 ∧
    KeepsRegs s t [Reg.pc, Reg.sp] ∧ KeepsFlags s t [] ∧ KeepsMemory s t ∧
    t.devLog = logAfterWord s.devLog (s.reg Reg.sp) ∧ t.requests = s.requests

/-- CLI, SEI (46_interrupt_handle.md, the text of rules R130 and R131). The spec marks these as its own decisions:
92_eei_decisions.md D22. -/
def Obligations.CliSeiWriteInterruptDisabled : Prop :=
  ∀ s : State,
    Completes (exec .cli s) (fun t =>
      t.flag .id = false ∧ KeepsRegs s t [] ∧ KeepsFlags s t [.id] ∧ KeepsMemory s t ∧ KeepsOutside s t) ∧
    Completes (exec .sei s) (fun t =>
      t.flag .id = true ∧ KeepsRegs s t [] ∧ KeepsFlags s t [.id] ∧ KeepsMemory s t ∧ KeepsOutside s t)

/-- RSI (46_interrupt_handle.md, the text of rule R132). The spec marks these as its own decisions:
92_eei_decisions.md D19, 92_eei_decisions.md D25. -/
def Obligations.RsiRestoresFlagsAndPc : Prop :=
  ∀ s : State,
    let sp := s.reg Reg.sp
    let log := logAfterWord s.devLog sp
    Completes (exec .rsi s) fun t =>
      (∀ k, k < 4 → t.flags.getLsbD k = (wordSeen s s.devLog sp).getLsbD k) ∧
      (∀ k, 4 ≤ k → t.flags.getLsbD k = s.flags.getLsbD k) ∧
      t.reg Reg.pc = wordSeen s log (sp + 2#16) ∧ t.reg Reg.sp = sp + 4#16 ∧ KeepsRegs s t [Reg.pc, Reg.sp] ∧
      KeepsMemory s t ∧ t.devLog = logAfterWord log (sp + 2#16) ∧ t.requests = s.requests

/-- The instruction cycle (30_encoding.md section 3, the text of rule R58; 10_state.md, of R14). The spec marks
these as its own decisions: 92_eei_decisions.md D23, 92_eei_decisions.md D30. -/
def Obligations.StepRunsDecodedInstruction : Prop :=
  ∀ (s : State) (i : Instr) (n : Nat),
    let b := environmentMoves s
    let bytes := readBytes n (b.reg Reg.pc) b
    b.flag .h = false → (b.flag .ip = false ∨ b.flag .id = true) → decode bytes.1 = .ok (i, []) → i.WellFormed →
      step s = exec i (bytes.2.setReg Reg.pc (b.reg Reg.pc + BitVec.ofNat 16 n))

/-- Illegal encodings (30_encoding.md, the text of rules R58 and R60). The spec marks these as its own decisions:
92_eei_decisions.md D1, 92_eei_decisions.md D11. -/
def Obligations.IllegalBytesFault : Prop :=
  ∀ (s : State) (n : Nat) (e : DecodeError),
    let b := environmentMoves s
    b.flag .h = false → (b.flag .ip = false ∨ b.flag .id = true) →
      decode (readBytes n (b.reg Reg.pc) b).1 = .error e → e ≠ .tooShort → step s = .fault .illegalInstruction

/-- A fetch is an ordinary read, from the device region too (20_memory.md, the text of rules R35, R36 and R43;
30_encoding.md, of R58 step 4). The spec marks these as its own decisions: 92_eei_decisions.md D7,
92_eei_decisions.md D9, 92_eei_decisions.md D27. The history of accesses is the model's field, log entries 4 and
5. -/
def Obligations.FetchReadsBytesInOrder : Prop :=
  ∀ (n : Nat) (a : Word) (s : State),
    let addresses := fun k : Nat => (List.range k).map fun j => a + BitVec.ofNat 16 j
    let log := fun k : Nat => (addresses k).foldl logAfter s.devLog
    readBytes n a s =
      ((List.range n).map fun k => byteSeen s (log k) (a + BitVec.ofNat 16 k), { s with devLog := log n }) ∧
    ((∀ k, k < n → ¬IsDevice (a + BitVec.ofNat 16 k)) →
      readBytes n a s = ((addresses n).map s.stored, s))

/-- H = 1 (40_control.md, the text of rule R71; 60_exceptions.md, of R144 and R155). The spec marks these as its own
decisions: 92_eei_decisions.md D21, 92_eei_decisions.md D23. The schedule is the model's own field, log entry 6.
That such a step is a next state is the model's choice, log entry 8. -/
def Obligations.HaltedMachineOnlyHearsRequests : Prop :=
  ∀ s : State, s.flag .h = true → Completes (step s) fun t =>
    t.flag .ip = (s.flag .ip || s.requests.headD false) ∧ KeepsRegs s t [] ∧ KeepsFlags s t [.ip] ∧
    KeepsMemory s t ∧ t.devLog = s.devLog ∧ t.requests = s.requests.tail

/-- Request (60_exceptions.md section 2, the text of rule R144). The spec marks these as its own decisions:
92_eei_decisions.md D9, 92_eei_decisions.md D23. The schedule is the model's own field, log entry 6. -/
def Obligations.EnvironmentOnlyRequests : Prop :=
  ∀ s : State,
    let t := environmentMoves s
    t.flag .ip = (s.flag .ip || s.requests.headD false) ∧ KeepsRegs s t [] ∧ KeepsFlags s t [.ip] ∧
    KeepsMemory s t ∧ t.devLog = s.devLog ∧ t.requests = s.requests.tail

/-- Interrupt entry (60_exceptions.md section 2, the text of rules R145 to R148). The spec marks these as its own
decisions: 92_eei_decisions.md D19, 92_eei_decisions.md D23, 92_eei_decisions.md D24. -/
def Obligations.InterruptEntrySavesPcAndFlags : Prop :=
  ∀ s : State,
    let b := environmentMoves s
    let sp := b.reg Reg.sp
    let pc := b.reg Reg.pc
    b.flag .h = false → b.flag .ip = true → b.flag .id = false →
    b.flags.getLsbD 5 = false → b.flags.getLsbD 6 = false →
    ¬IsRom (sp - 1#16) → ¬IsRom (sp - 2#16) → ¬IsRom (sp - 3#16) → ¬IsRom (sp - 4#16) →
      Completes (step s) fun t =>
        t.reg Reg.pc = Config.irqVector ∧ t.reg Reg.sp = sp - 4#16 ∧ KeepsRegs b t [Reg.pc, Reg.sp] ∧
        t.flag .ip = false ∧ t.flag .id = true ∧ KeepsFlags b t [.ip, .id] ∧
        StoresOnly b t [(sp - 2#16, pc.extractLsb' 8 8), (sp - 1#16, pc.extractLsb' 0 8),
          (sp - 4#16, 0#8), (sp - 3#16, b.flags &&& 0x07#8)]

/-- Interrupt entry (60_exceptions.md section 2, the text of rules R146 and R148). The spec marks these as its own
decisions: 92_eei_decisions.md D8, 92_eei_decisions.md D23. -/
def Obligations.InterruptEntryIntoRomFaults : Prop :=
  ∀ s : State,
    let b := environmentMoves s
    let sp := b.reg Reg.sp
    b.flag .h = false → b.flag .ip = true → b.flag .id = false →
    (IsRom (sp - 1#16) ∨ IsRom (sp - 2#16) ∨ IsRom (sp - 3#16) ∨ IsRom (sp - 4#16)) → step s = .fault .romWrite

/-- The encoding (30_encoding.md, the text of rules R52 to R59). The spec derives the formats; The spec marks these
as its own decisions: 92_eei_decisions.md D1, 92_eei_decisions.md D5, 92_eei_decisions.md D31. -/
def Obligations.DecodeInvertsEncode : Prop :=
  ∀ (i : Instr) (rest : List Byte), i.WellFormed → decode (encode i ++ rest) = .ok (i, rest)

/-- Every encoding is one of the 73 forms or illegal (30_encoding.md, the text of rule R60). The spec marks these as
its own decisions: 92_eei_decisions.md D1, 92_eei_decisions.md D5, 92_eei_decisions.md D11. -/
def Obligations.EncodeInvertsDecode : Prop :=
  ∀ (bs : List Byte) (i : Instr) (rest : List Byte), decode bs = .ok (i, rest) →
    i.WellFormed ∧ bs = encode i ++ rest

/-- Illegal encodings (30_encoding.md section 4, the text of rule R60). The spec marks these as its own decisions:
92_eei_decisions.md D11. -/
def Obligations.LegalFirstBytesNumber73 : Prop :=
  ((List.range 256).filter fun v => (formOf (BitVec.ofNat 8 v)).isOk).length = 73 ∧
  ((List.range 256).filter fun v => match formOf (BitVec.ofNat 8 v) with
    | .error .unassignedOpcode => true
    | _ => false).length = 16 ∧
  ((List.range 256).filter fun v => match formOf (BitVec.ofNat 8 v) with
    | .error .unlistedForm => true
    | _ => false).length = 167

/-- Derived vectors of 95_test_vectors.md section 2.0, which the spec computes from its rules. -/
def Obligations.DecodesWordsOfTheSpec : Prop :=
  decode [0x00] = .ok (.nop, []) ∧
  decode [0x17, 0x05, 0x12, 0x34] = .ok (.movBIndRL 5 0x1234, []) ∧
  decode [0x20, 0x05] = .ok (.plrR 5, []) ∧
  decode [0x48, 0x05, 0x0A] = .ok (.modRR 5 10, []) ∧
  decode [0x72, 0x05, 0x12, 0x34] = .ok (.shlRL 5 0x1234, []) ∧
  decode [0x8C, 0x05, 0x0A] = .ok (.cmpBRR 5 10, []) ∧
  decode [0xC2, 0x12, 0x34] = .ok (.jncL 0x1234, []) ∧
  decode [0xCA, 0x12, 0x34] = .ok (.jsbL 0x1234, []) ∧
  decode [0xE8] = .ok (.rsi, [])

/-- The sizes of 30_encoding.md R51, with the place of each argument: the first byte at the lowest address (R50,
which the spec derives), then ARG 1, then ARG 2 (R54). JSB has the 24-bit form only (90_conflicts.md C1). The
spec marks these as its own decisions: 92_eei_decisions.md D5, 92_eei_decisions.md D31. -/
def Obligations.EncodingSizes : Prop :=
  ∀ i : Instr, ∃ b0 : Byte,
    match i with
    | .nop | .hlt | .rsb | .cli | .sei | .rsi =>
      encode i = [b0]
    | .phrR r | .plrR r | .incR r | .incBR r | .decR r | .decBR r | .notR r | .notBR r | .jmpR r | .jzR r
    | .jnzR r | .jnR r | .jnnR r | .jcR r | .jncR r =>
      encode i = [b0, r]
    | .movRR r q | .movBRR r q | .movIndRR r q | .movBIndRR r q | .addRR r q | .addBRR r q | .subRR r q
    | .subBRR r q | .mulRR r q | .mulBRR r q | .divRR r q | .divBRR r q | .modRR r q | .modBRR r q | .andRR r q
    | .andBRR r q | .orRR r q | .orBRR r q | .shlRR r q | .shrRR r q | .cmpRR r q | .cmpBRR r q =>
      encode i = [b0, r, q]
    | .jmpL k | .jzL k | .jnzL k | .jnL k | .jnnL k | .jcL k | .jncL k | .jsbL k =>
      encode i = b0 :: litBytes k ∧ (litBytes k).length = 2
    | .movRL r k | .movBRL r k | .movIndRL r k | .movBIndRL r k | .addRL r k | .addBRL r k | .subRL r k
    | .subBRL r k | .mulRL r k | .mulBRL r k | .divRL r k | .divBRL r k | .modRL r k | .modBRL r k | .andRL r k
    | .andBRL r k | .orRL r k | .orBRL r k | .shlRL r k | .shrRL r k | .cmpRL r k | .cmpBRL r k =>
      encode i = b0 :: r :: litBytes k ∧ (litBytes k).length = 2

/-- Rule R31 (20_memory.md section 1). -/
def Obligations.RegionsOfTheAddressSpace : Prop :=
  (∀ a : Word,
    (regionOf a = .rom ↔ a.toNat ≤ 0x7FFF) ∧
    (regionOf a = .ram ↔ 0x8000 ≤ a.toNat ∧ a.toNat ≤ 0xEFFF) ∧
    (regionOf a = .devices ↔ 0xF000 ≤ a.toNat ∧ a.toNat ≤ 0xFFFF) ∧
    (regionOf a = .rom ↔ a.getLsbD 15 = false) ∧
    (regionOf a = .devices ↔ a.extractLsb' 12 4 = 0xF#4) ∧
    (regionOf a = .ram ↔ ¬a.getLsbD 15 = false ∧ ¬a.extractLsb' 12 4 = 0xF#4)) ∧
  0x7FFF + 1 = 32768 ∧ 0xEFFF + 1 - 0x8000 = 28672 ∧ 0xFFFF + 1 - 0xF000 = 4096

/-- Rule R16 (10_state.md section 3), the bits; that a write changes one flag is 00_scope.md R8, of which this
states the primitive `Z <- b` alone. -/
def Obligations.FlagsStandAtTheirBits : Prop :=
  ∀ s : State,
    (s.flag .z = s.flags.getLsbD 0 ∧ s.flag .c = s.flags.getLsbD 1 ∧ s.flag .n = s.flags.getLsbD 2 ∧
     s.flag .id = s.flags.getLsbD 3 ∧ s.flag .ip = s.flags.getLsbD 4 ∧ s.flag .h = s.flags.getLsbD 7) ∧
    ∀ (f : Flag) (v : Bool), (s.setFlag f v).flag f = v ∧ KeepsFlags s (s.setFlag f v) [f]

/-- Bits 5 and 6 of FLAGS (10_state.md section 3, the text of rule R17), and the model's own canonical form of the
memory (log entry 3). The spec marks these as its own decisions: 92_eei_decisions.md D3. -/
def Obligations.StepKeepsInvariant : Prop :=
  ∀ s t : State, Inv s → step s = .next t → Inv t

/-- Bits 5 and 6 of FLAGS at reset (10_state.md section 6, the text of rule R23), which the spec marks as its own
decisions (92_eei_decisions.md D3, 92_eei_decisions.md D4), and the canonical form of the memory, which is the
model's own choice (log entry 3). -/
def Obligations.ResetHasInvariant : Prop :=
  Inv State.reset

/-- Reset (10_state.md section 6, the text of rule R23): the values the spec gives, none of those the model chose.
The spec marks these as its own decisions: 92_eei_decisions.md D4. -/
def Obligations.ResetStartsAtZero : Prop :=
  State.reset.reg Reg.pc = 0x0000#16 ∧ State.reset.flags = 0x00#8

/-- ROM (20_memory.md section 2, the text of rule R33): it never changes. The spec marks these as its own decisions:
92_eei_decisions.md D8, 92_eei_decisions.md D10. -/
def Obligations.RomNeverChanges : Prop :=
  ∀ s t : State, step s = .next t → ∀ a : Word, IsRom a → t.stored a = s.stored a

/-- The device region sees the accesses in order (20_memory.md, the text of rules R35 and R41); the list is the
model's field, log entry 5. The spec marks these as its own decisions: 92_eei_decisions.md D9,
92_eei_decisions.md D27. -/
def Obligations.DevicesKeepTheirHistory : Prop :=
  ∀ s t : State, step s = .next t → ∃ events, t.devLog = s.devLog ++ events

/-- Index of flag writers (10_state.md section 3, the text of rule R20, which the spec derives from the instruction
rules). -/
def Obligations.FlagsHaveOnlyTheirWriters : Prop :=
  ∀ (i : Instr) (s t : State), exec i s = .next t →
    t.flag .ip = s.flag .ip ∧ t.flags.getLsbD 5 = s.flags.getLsbD 5 ∧ t.flags.getLsbD 6 = s.flags.getLsbD 6 ∧
    (t.flag .h ≠ s.flag .h → i = .hlt) ∧
    (t.flag .id ≠ s.flag .id → i = .cli ∨ i = .sei ∨ i = .rsi) ∧
    (t.flag .z ≠ s.flag .z ∨ t.flag .n ≠ s.flag .n →
      match i with
        | .addRR _ _ | .addRL _ _ | .addBRR _ _ | .addBRL _ _ | .subRR _ _ | .subRL _ _ | .subBRR _ _
        | .subBRL _ _ | .mulRR _ _ | .mulRL _ _ | .mulBRR _ _ | .mulBRL _ _ | .divRR _ _ | .divRL _ _
        | .divBRR _ _ | .divBRL _ _ | .modRR _ _ | .modRL _ _ | .modBRR _ _ | .modBRL _ _ | .incR _ | .incBR _
        | .decR _ | .decBR _ | .andRR _ _ | .andRL _ _ | .andBRR _ _ | .andBRL _ _ | .orRR _ _ | .orRL _ _
        | .orBRR _ _ | .orBRL _ _ | .shlRR _ _ | .shlRL _ _ | .shrRR _ _ | .shrRL _ _ | .notR _ | .notBR _
        | .cmpRR _ _ | .cmpRL _ _ | .cmpBRR _ _ | .cmpBRL _ _ | .rsi => True
        | _ => False) ∧
    (t.flag .c ≠ s.flag .c →
      match i with
        | .addRR _ _ | .addRL _ _ | .addBRR _ _ | .addBRL _ _ | .subRR _ _ | .subRL _ _ | .subBRR _ _
        | .subBRL _ _ | .mulRR _ _ | .mulRL _ _ | .mulBRR _ _ | .mulBRL _ _ | .incR _ | .incBR _ | .decR _
        | .decBR _ | .shlRR _ _ | .shlRL _ _ | .shrRR _ _ | .shrRL _ _ | .cmpRR _ _ | .cmpRL _ _ | .cmpBRR _ _
        | .cmpBRL _ _ | .rsi => True
        | _ => False)

/-- The faults an instruction raises and their causes (60_exceptions.md section 1, the text of rule R142;
20_memory.md, of R37; 41_data_transfer.md, of R78; 42_arithmetic.md, of R88 and R89). The spec marks these as
its own decisions: 92_eei_decisions.md D8, 92_eei_decisions.md D15, 92_eei_decisions.md D19. -/
def Obligations.FaultsHaveTheirCauses : Prop :=
  ∀ (i : Instr) (s : State), i.WellFormed →
    (∀ r, exec i s ≠ .refused r) ∧
    ∀ f, exec i s = .fault f →
      (f = .divideByZero ∧
        match i with
        | .divRR _ q | .modRR _ q => ∃ e : Reg, q = e.field ∧ (s.reg e).toNat = 0
        | .divRL _ k | .modRL _ k => k.toNat = 0
        | .divBRR _ q | .modBRR _ q => ∃ e : Reg, q = e.field ∧ (s.reg e).toNat % 256 = 0
        | .divBRL _ k | .modBRL _ k => k.toNat % 256 = 0
        | _ => False) ∨
      (f = .romWrite ∧
        match i with
        | .movIndRR r _ | .movIndRL r _ => ∃ d : Reg, r = d.field ∧ (IsRom (s.reg d) ∨ IsRom (s.reg d + 1#16))
        | .movBIndRR r _ | .movBIndRL r _ => ∃ d : Reg, r = d.field ∧ IsRom (s.reg d)
        | .phrR _ | .jsbL _ => IsRom (s.reg Reg.sp - 2#16) ∨ IsRom (s.reg Reg.sp - 1#16)
        | _ => False)

/-- Every state that is not faulted has a next step (30_encoding.md section 3; 93_implementation_defined.md section
1, last paragraph). -/
def Obligations.StepIsNeverRefused : Prop :=
  ∀ (s : State) (r : Refusal), step s ≠ .refused r

/-- The first law of 95_test_vectors.md section 2.10, which the spec derives from its instruction rules. An
instruction runs with R14 past its bytes (10_state.md, the text of rule R14), so R14 is shut out as an operand:
between the two it moves by 3. The spec marks these as its own decisions: 92_eei_decisions.md D30. -/
def Obligations.AddThenSubRestores : Prop :=
  ∀ (s : State) (d e : Reg), d ≠ e → d ≠ Reg.pc → e ≠ Reg.pc →
    Completes (exec (.addRR d.field e.field) s) fun t =>
      Completes (exec (.subRR d.field e.field) (advancePc t (t.reg Reg.pc) 3)) fun u =>
        KeepsRegs s u [Reg.pc] ∧ u.reg Reg.pc = s.reg Reg.pc + 3#16 ∧
        u.flag .c = decide ((t.reg d).toNat < (s.reg e).toNat)

/-- The law of DIV and MOD (42_arithmetic.md section 3, the text of rule R92, which the spec derives from rules R85
to R91). -/
def Obligations.DivAndModRecoverDividend : Prop :=
  ∀ (s : State) (d e : Reg), (s.reg e).toNat ≠ 0 → Completes (exec (.divRR d.field e.field) s) fun q =>
    Completes (exec (.modRR d.field e.field) s) fun m =>
      (q.reg d).toNat * (s.reg e).toNat + (m.reg d).toNat = (s.reg d).toNat ∧
      (m.reg d).toNat < (s.reg e).toNat ∧ q.flag .c = s.flag .c ∧ m.flag .c = s.flag .c

/-- A law of 95_test_vectors.md section 2.10, which the spec derives from its instruction rules. -/
def Obligations.ShlAgreesWithMulByPower : Prop :=
  ∀ (s : State) (d : Reg) (n : Nat), 0 < n → n < 16 →
    Completes (exec (.shlRL d.field (BitVec.ofNat 16 n)) s) fun t =>
      Completes (exec (.mulRL d.field (BitVec.ofNat 16 (2 ^ n))) s) fun u =>
        KeepsRegs t u [] ∧ u.flag .z = t.flag .z ∧ u.flag .n = t.flag .n

/-- A law of 95_test_vectors.md section 2.10, which the spec derives from its instruction rules. The spec marks
these as its own decisions: 92_eei_decisions.md D19. -/
def Obligations.PhrThenPlrCopies : Prop :=
  ∀ (s : State) (r d : Reg), r ≠ Reg.sp → d ≠ Reg.sp → IsRam (s.reg Reg.sp - 2#16) → IsRam (s.reg Reg.sp - 1#16) →
    Completes (exec (.phrR r.field) s) fun t => Completes (exec (.plrR d.field) t) fun u =>
      u.reg d = s.reg r ∧ KeepsRegs s u [d] ∧ KeepsFlags s u [] ∧ KeepsOutside s u

/-- JSB and RSB (45_control_flow.md section 2, the text of rules R120 and R121). The spec marks these as its own
decisions: 92_eei_decisions.md D19, 92_eei_decisions.md D20. -/
def Obligations.RsbReturnsFromJsb : Prop :=
  ∀ (s : State) (k : Word), IsRam (s.reg Reg.sp - 2#16) → IsRam (s.reg Reg.sp - 1#16) →
    Completes (exec (.jsbL k) s) fun t => Completes (exec .rsb t) fun u =>
      KeepsRegs s u [] ∧ KeepsFlags s u [] ∧ KeepsOutside s u

/-- RSI undoes interrupt entry (46_interrupt_handle.md, the text of rule R132; 60_exceptions.md, of R149). The spec
marks these as its own decisions: 92_eei_decisions.md D23, 92_eei_decisions.md D25. -/
def Obligations.RsiUndoesInterruptEntry : Prop :=
  ∀ s : State, s.flag .id = false →
    IsRam (s.reg Reg.sp - 1#16) → IsRam (s.reg Reg.sp - 2#16) →
    IsRam (s.reg Reg.sp - 3#16) → IsRam (s.reg Reg.sp - 4#16) →
    Completes (interruptEntry s) fun t => Completes (exec .rsi t) fun u =>
      KeepsRegs s u [] ∧ u.flag .ip = false ∧ KeepsFlags s u [.ip] ∧ KeepsOutside s u

/-- Rule R51 (30_encoding.md section 1), the size table read with the form table, and nothing of the order of the
bytes; JSB in the 24-bit form only (90_conflicts.md C1). -/
def Obligations.InstructionSizes : Prop :=
  ∀ i : Instr,
    match i with
    | .nop | .hlt | .rsb | .cli | .sei | .rsi =>
      i.args = .none ∧ 8 * (encode i).length = 8
    | .phrR r | .plrR r | .incR r | .incBR r | .decR r | .decBR r | .notR r | .notBR r | .jmpR r | .jzR r
    | .jnzR r | .jnR r | .jnnR r | .jcR r | .jncR r =>
      i.args = .reg r ∧ 8 * (encode i).length = 16
    | .movRR r q | .movBRR r q | .movIndRR r q | .movBIndRR r q | .addRR r q | .addBRR r q | .subRR r q
    | .subBRR r q | .mulRR r q | .mulBRR r q | .divRR r q | .divBRR r q | .modRR r q | .modBRR r q | .andRR r q
    | .andBRR r q | .orRR r q | .orBRR r q | .shlRR r q | .shrRR r q | .cmpRR r q | .cmpBRR r q =>
      i.args = .regReg r q ∧ 8 * (encode i).length = 24
    | .jmpL k | .jzL k | .jnzL k | .jnL k | .jnnL k | .jcL k | .jncL k | .jsbL k =>
      i.args = .lit k ∧ 8 * (encode i).length = 24
    | .movRL r k | .movBRL r k | .movIndRL r k | .movBIndRL r k | .addRL r k | .addBRL r k | .subRL r k
    | .subBRL r k | .mulRL r k | .mulBRL r k | .divRL r k | .divBRL r k | .modRL r k | .modBRL r k | .andRL r k
    | .andBRL r k | .orRL r k | .orBRL r k | .shlRL r k | .shrRL r k | .cmpRL r k | .cmpBRL r k =>
      i.args = .regLit r k ∧ 8 * (encode i).length = 32
end

