-- ==== Sys2Proof/Laws/Decode.lean ====
section
/-! SUPPORT. The decoder and the encoder: each form's first byte, and the small facts about literals and Reg fields. -/

namespace Sys2Proof

/-- The form each instruction is decoded by. -/
def Instr.form : Instr → Form
  | .nop => .n .nop
  | .hlt => .n .hlt
  | .movRR _ _ => .rr .movRR
  | .movRL _ _ => .rl .movRL
  | .movBRR _ _ => .rr .movBRR
  | .movBRL _ _ => .rl .movBRL
  | .movIndRR _ _ => .rr .movIndRR
  | .movIndRL _ _ => .rl .movIndRL
  | .movBIndRR _ _ => .rr .movBIndRR
  | .movBIndRL _ _ => .rl .movBIndRL
  | .phrR _ => .r .phrR
  | .plrR _ => .r .plrR
  | .addRR _ _ => .rr .addRR
  | .addRL _ _ => .rl .addRL
  | .addBRR _ _ => .rr .addBRR
  | .addBRL _ _ => .rl .addBRL
  | .subRR _ _ => .rr .subRR
  | .subRL _ _ => .rl .subRL
  | .subBRR _ _ => .rr .subBRR
  | .subBRL _ _ => .rl .subBRL
  | .mulRR _ _ => .rr .mulRR
  | .mulRL _ _ => .rl .mulRL
  | .mulBRR _ _ => .rr .mulBRR
  | .mulBRL _ _ => .rl .mulBRL
  | .divRR _ _ => .rr .divRR
  | .divRL _ _ => .rl .divRL
  | .divBRR _ _ => .rr .divBRR
  | .divBRL _ _ => .rl .divBRL
  | .modRR _ _ => .rr .modRR
  | .modRL _ _ => .rl .modRL
  | .modBRR _ _ => .rr .modBRR
  | .modBRL _ _ => .rl .modBRL
  | .incR _ => .r .incR
  | .incBR _ => .r .incBR
  | .decR _ => .r .decR
  | .decBR _ => .r .decBR
  | .andRR _ _ => .rr .andRR
  | .andRL _ _ => .rl .andRL
  | .andBRR _ _ => .rr .andBRR
  | .andBRL _ _ => .rl .andBRL
  | .orRR _ _ => .rr .orRR
  | .orRL _ _ => .rl .orRL
  | .orBRR _ _ => .rr .orBRR
  | .orBRL _ _ => .rl .orBRL
  | .shlRR _ _ => .rr .shlRR
  | .shlRL _ _ => .rl .shlRL
  | .shrRR _ _ => .rr .shrRR
  | .shrRL _ _ => .rl .shrRL
  | .notR _ => .r .notR
  | .notBR _ => .r .notBR
  | .cmpRR _ _ => .rr .cmpRR
  | .cmpRL _ _ => .rl .cmpRL
  | .cmpBRR _ _ => .rr .cmpBRR
  | .cmpBRL _ _ => .rl .cmpBRL
  | .jmpR _ => .r .jmpR
  | .jmpL _ => .l .jmpL
  | .jzR _ => .r .jzR
  | .jzL _ => .l .jzL
  | .jnzR _ => .r .jnzR
  | .jnzL _ => .l .jnzL
  | .jnR _ => .r .jnR
  | .jnL _ => .l .jnL
  | .jnnR _ => .r .jnnR
  | .jnnL _ => .l .jnnL
  | .jcR _ => .r .jcR
  | .jcL _ => .l .jcL
  | .jncR _ => .r .jncR
  | .jncL _ => .l .jncL
  | .jsbL _ => .l .jsbL
  | .rsb => .n .rsb
  | .cli => .n .cli
  | .sei => .n .sei
  | .rsi => .n .rsi

/-- The first byte the encoder gives an instruction begins that instruction's form. -/
theorem formOf_firstByte (i : Instr) : formOf i.row.firstByte = .ok i.form := by
  cases i <;> simp [formOf, opcodeOf, flagBitsOf, Row.firstByte, Instr.row, legalForm, Instr.form]

/-- The form's length is the encoding's. -/
theorem form_len_eq_length (i : Instr) : i.form.len = (encode i).length := by
  cases i <;> rfl

/-- Decoding an encoding decodes its arguments in the instruction's own form. -/
theorem decode_encode_eq_decodeArgs (i : Instr) (rest : List Byte) :
    decode (encode i ++ rest) = decodeArgs i.form (i.args.bytes ++ rest) := by
  simp [decode, encode, formOf_firstByte]

/-- The length the first byte announces is the encoding's. -/
theorem lengthOf_firstByte (i : Instr) : lengthOf i.row.firstByte = .ok (encode i).length := by
  simp only [lengthOf, formOf_firstByte, form_len_eq_length]

/-- A literal's two bytes, joined, are the literal. -/
@[simp] theorem litOfBytes_halves (k : Word) : litOfBytes (k.extractLsb' 8 8) (k.extractLsb' 0 8) = k := by
  have h : litOfBytes (k.extractLsb' 8 8) (k.extractLsb' 0 8) = k := by
    unfold litOfBytes
    ext j hj
    simp only [BitVec.getElem_append, BitVec.getElem_extractLsb']
    split <;> simp [BitVec.getElem_eq_testBit_toNat, *]
    congr 1
    omega
  exact h

/-- A register's field names it. -/
theorem names_field (r : Reg) : RegField.Names r.field := by
  have h := r.isLt
  simp only [RegField.Names, Reg.field, BitVec.toNat_ofNat]
  omega

end Sys2Proof
end

