-- ==== Sys2Proof/Laws/State.lean ====
section
/-! SUPPORT. One lemma per field per update of the state, the register and flag laws, and the laws of single bits. -/

namespace Sys2Proof.Machine

/-! ## setReg -/

@[simp] theorem setReg_flags (s : State) (r : Reg) (v : Word) : (s.setReg r v).flags = s.flags := rfl
@[simp] theorem setReg_mem (s : State) (r : Reg) (v : Word) : (s.setReg r v).mem = s.mem := rfl
@[simp] theorem setReg_devLog (s : State) (r : Reg) (v : Word) : (s.setReg r v).devLog = s.devLog := rfl
@[simp] theorem setReg_requests (s : State) (r : Reg) (v : Word) : (s.setReg r v).requests = s.requests := rfl
@[simp] theorem setReg_flag (s : State) (r : Reg) (v : Word) (f : Flag) : (s.setReg r v).flag f = s.flag f := rfl
@[simp] theorem setReg_stored (s : State) (r : Reg) (v a : Word) : (s.setReg r v).stored a = s.stored a := rfl

/-- A register reads as it was last written. -/
theorem reg_setReg (s : State) (r q : Reg) (v : Word) :
    (s.setReg r v).reg q = if q = r then v else s.reg q := by
  simp only [State.reg, State.setReg, Vector.get_eq_getElem, Vector.getElem_set, Fin.ext_iff, eq_comm]

@[simp] theorem reg_setReg_self (s : State) (r : Reg) (v : Word) : (s.setReg r v).reg r = v := by
  simp [reg_setReg]

@[simp] theorem reg_setReg_of_ne (s : State) {r q : Reg} (v : Word) (h : q ≠ r) :
    (s.setReg r v).reg q = s.reg q := by
  simp [reg_setReg, h]

/-! ## setFlag -/

@[simp] theorem setFlag_regs (s : State) (f : Flag) (b : Bool) : (s.setFlag f b).regs = s.regs := rfl
@[simp] theorem setFlag_reg (s : State) (f : Flag) (b : Bool) (r : Reg) : (s.setFlag f b).reg r = s.reg r := rfl
@[simp] theorem setFlag_mem (s : State) (f : Flag) (b : Bool) : (s.setFlag f b).mem = s.mem := rfl
@[simp] theorem setFlag_devLog (s : State) (f : Flag) (b : Bool) : (s.setFlag f b).devLog = s.devLog := rfl
@[simp] theorem setFlag_requests (s : State) (f : Flag) (b : Bool) : (s.setFlag f b).requests = s.requests := rfl
@[simp] theorem setFlag_stored (s : State) (f : Flag) (b : Bool) (a : Word) :
    (s.setFlag f b).stored a = s.stored a := rfl

/-- The bits of a byte after one of them is written. -/
theorem getLsbD_setBit (v : Byte) (k j : Nat) (b : Bool) (hk : k < 8) :
    (setBit v k b).getLsbD j = if j = k then b else v.getLsbD j := by
  unfold setBit
  by_cases hj : j < 8
  · cases b <;> simp only [Bool.false_eq_true, if_true, if_false, BitVec.getLsbD_and, BitVec.getLsbD_or,
      BitVec.getLsbD_not, BitVec.getLsbD_shiftLeft, BitVec.getLsbD_one, hj] <;>
      by_cases h : j = k <;> simp [h] <;> omega
  · have hne : j ≠ k := by omega
    cases b <;> simp [hne, BitVec.getLsbD_of_ge _ _ (Nat.le_of_not_lt hj)]

/-- Every flag is a bit of the byte. -/
theorem Flag.pos_lt (f : Flag) : f.pos < 8 := by cases f <;> decide

/-- No two flags share a bit. -/
theorem Flag.pos_inj {f g : Flag} : f.pos = g.pos ↔ f = g := by
  cases f <;> cases g <;> decide

/-- No flag is a reserved bit. -/
theorem Flag.pos_not_reserved (f : Flag) : f.pos ≠ 5 ∧ f.pos ≠ 6 := by cases f <;> decide

/-- The bits of FLAGS after a flag is written. -/
theorem getLsbD_setFlag (s : State) (f : Flag) (b : Bool) (k : Nat) :
    (s.setFlag f b).flags.getLsbD k = if k = f.pos then b else s.flags.getLsbD k :=
  getLsbD_setBit s.flags f.pos k b f.pos_lt

/-- A flag reads as it was last written. -/
theorem flag_setFlag (s : State) (f g : Flag) (b : Bool) :
    (s.setFlag f b).flag g = if g = f then b else s.flag g := by
  simp only [State.flag, getLsbD_setFlag, Flag.pos_inj]

@[simp] theorem flag_setFlag_self (s : State) (f : Flag) (b : Bool) : (s.setFlag f b).flag f = b := by
  simp [flag_setFlag]

@[simp] theorem flag_setFlag_of_ne (s : State) {f g : Flag} (b : Bool) (h : g ≠ f) :
    (s.setFlag f b).flag g = s.flag g := by
  simp [flag_setFlag, h]

end Sys2Proof.Machine
end

