-- ==== Sys2Proof/Laws/Memory.lean ====
section
/-! SUPPORT. The laws of the stored bytes: a read after a write, the canonical form kept, and what a read and a write of
one byte or one word do. -/

namespace Sys2Proof.Machine

/-! ## The list of cells -/

/-- The byte put at an address is found there. -/
@[simp] theorem find_put_self (m : Memory) (a : Nat) (b : Byte) : Memory.find (Memory.put m a b) a = some b := by
  induction m with
  | nil => simp [Memory.put, Memory.find]
  | cons cell m ih =>
    obtain ⟨k, c⟩ := cell
    simp only [Memory.put]
    split
    · simp [Memory.find]
    · split
      · simp [Memory.find]
      · have hne : ¬k = a := by omega
        simp [Memory.find, hne, ih]

/-- A byte put at one address leaves every other address alone. -/
theorem find_put_of_ne (m : Memory) {a x : Nat} (b : Byte) (h : x ≠ a) :
    Memory.find (Memory.put m a b) x = Memory.find m x := by
  induction m with
  | nil => simp [Memory.put, Memory.find, Ne.symm h]
  | cons cell m ih =>
    obtain ⟨k, c⟩ := cell
    simp only [Memory.put]
    split
    · simp [Memory.find, Ne.symm h]
    · split
      · rename_i hk
        simp [Memory.find, Ne.symm h, ← hk]
      · simp [Memory.find, ih]

/-- A put keeps the rise from any bound at or below the address. -/
theorem risingFrom_put (m : Memory) (lo a : Nat) (b : Byte) (hlo : lo ≤ a) (ha : a < 0xF000)
    (h : Memory.risingFrom lo m = true) : Memory.risingFrom lo (Memory.put m a b) = true := by
  induction m generalizing lo with
  | nil => simp [Memory.put, Memory.risingFrom, hlo, ha]
  | cons cell m ih =>
    obtain ⟨k, c⟩ := cell
    simp only [Memory.risingFrom, Bool.and_eq_true, decide_eq_true_eq] at h
    obtain ⟨⟨hk, hkb⟩, hm⟩ := h
    simp only [Memory.put]
    split
    · rename_i hlt
      simp [Memory.risingFrom, hlo, ha, hkb, hm]
      omega
    · split
      · rename_i heq
        subst heq
        simp [Memory.risingFrom, hlo, ha, hm]
      · have hak : k + 1 ≤ a := by omega
        simp [Memory.risingFrom, hk, hkb, ih (k + 1) hak hm]

/-- A byte put at an address below the device region keeps the canonical form. -/
theorem wf_put (m : Memory) (a : Nat) (b : Byte) (ha : a < 0xF000) (h : Memory.wf m = true) :
    Memory.wf (Memory.put m a b) = true :=
  risingFrom_put m 0 a b (Nat.zero_le a) ha h

/-- The memory of the reset state is in canonical form. -/
theorem wf_reset : Memory.wf State.reset.mem = true := rfl

/-- What is not the device region lies below 0xF000. -/
theorem toNat_lt_of_not_devices {a : Word} (h : regionOf a ≠ .devices) : a.toNat < 0xF000 := by
  simp only [regionOf] at h
  have ha := a.isLt
  split at h
  · rename_i h15
    rw [← BitVec.testBit_toNat, Nat.testBit_eq_decide_div_mod_eq] at h15
    simp only [decide_eq_false_iff_not] at h15
    omega
  · split at h
    · exact absurd rfl h
    · rename_i hx
      by_contra hge
      refine hx (BitVec.eq_of_toNat_eq ?_)
      simp only [BitVec.extractLsb'_toNat, Nat.shiftRight_eq_div_pow, BitVec.toNat_ofNat]
      omega

/-- Bytes placed in memory keep its canonical form. -/
theorem wf_placeBytes (bs : List Byte) (a : Word) (m : Memory) (h : Memory.wf m = true) :
    Memory.wf (placeBytes bs a m) = true := by
  induction bs generalizing a m with
  | nil => exact h
  | cons b bs ih =>
    refine ih (a + 1#16) _ ?_
    split
    · exact h
    · rename_i hr
      exact wf_put m a.toNat b (toNat_lt_of_not_devices hr) h

/-! ## Writing a byte and a word -/

@[simp] theorem storeByte_regs (s : State) (a : Word) (b : Byte) : (storeByte s a b).regs = s.regs := by
  unfold storeByte; split <;> rfl
@[simp] theorem storeByte_flags (s : State) (a : Word) (b : Byte) : (storeByte s a b).flags = s.flags := by
  unfold storeByte; split <;> rfl
@[simp] theorem storeByte_requests (s : State) (a : Word) (b : Byte) : (storeByte s a b).requests = s.requests := by
  unfold storeByte; split <;> rfl
@[simp] theorem storeByte_reg (s : State) (a : Word) (b : Byte) (r : Reg) : (storeByte s a b).reg r = s.reg r := by
  simp [State.reg]
@[simp] theorem storeByte_flag (s : State) (a : Word) (b : Byte) (f : Flag) :
    (storeByte s a b).flag f = s.flag f := by
  simp [State.flag]

/-- What every byte reads as after a byte is written: RAM takes it, ROM and the devices store nothing. -/
theorem stored_storeByte (s : State) (a x : Word) (b : Byte) :
    (storeByte s a b).stored x = if regionOf a = .ram ∧ x = a then b else s.stored x := by
  unfold storeByte State.stored
  split <;> rename_i h <;> simp only [h, true_and, false_and, if_false, reduceCtorEq]
  by_cases hx : x = a
  · subst hx; simp
  · have hne : x.toNat ≠ a.toNat := fun h' => hx (BitVec.eq_of_toNat_eq h')
    simp [hx, find_put_of_ne _ _ hne]

/-- What the devices have seen after a byte is written. -/
theorem devLog_storeByte (s : State) (a : Word) (b : Byte) :
    (storeByte s a b).devLog = if regionOf a = .devices then s.devLog ++ [.write a b] else s.devLog := by
  unfold storeByte
  split <;> rename_i h <;> simp [h]

/-- Writing a byte keeps the canonical form of the memory. -/
theorem wf_storeByte (s : State) (a : Word) (b : Byte) (h : Memory.wf s.mem = true) :
    Memory.wf (storeByte s a b).mem = true := by
  unfold storeByte
  split <;> rename_i hr
  · exact h
  · exact wf_put s.mem a.toNat b (toNat_lt_of_not_devices (by simp [hr])) h
  · exact h

@[simp] theorem storeWord_regs (s : State) (a v : Word) : (storeWord s a v).regs = s.regs := by simp [storeWord]
@[simp] theorem storeWord_flags (s : State) (a v : Word) : (storeWord s a v).flags = s.flags := by simp [storeWord]
@[simp] theorem storeWord_requests (s : State) (a v : Word) : (storeWord s a v).requests = s.requests := by
  simp [storeWord]
@[simp] theorem storeWord_reg (s : State) (a v : Word) (r : Reg) : (storeWord s a v).reg r = s.reg r := by
  simp [storeWord]
@[simp] theorem storeWord_flag (s : State) (a v : Word) (f : Flag) : (storeWord s a v).flag f = s.flag f := by
  simp [storeWord]

/-- What every byte reads as after a word is written. -/
theorem stored_storeWord (s : State) (a v x : Word) :
    (storeWord s a v).stored x =
      if regionOf (a + 1#16) = .ram ∧ x = a + 1#16 then loByte v
      else if regionOf a = .ram ∧ x = a then hiByte v else s.stored x := by
  simp only [storeWord, stored_storeByte]

/-- What the devices have seen after a word is written. -/
theorem devLog_storeWord (s : State) (a v : Word) :
    (storeWord s a v).devLog =
      s.devLog ++ (if regionOf a = .devices then [.write a (hiByte v)] else []) ++
        (if regionOf (a + 1#16) = .devices then [.write (a + 1#16) (loByte v)] else []) := by
  simp only [storeWord, devLog_storeByte]
  split <;> split <;> simp

/-- Writing a word keeps the canonical form of the memory. -/
theorem wf_storeWord (s : State) (a v : Word) (h : Memory.wf s.mem = true) :
    Memory.wf (storeWord s a v).mem = true :=
  wf_storeByte _ _ _ (wf_storeByte s a (hiByte v) h)

/-! ## Reading a byte, a word, several bytes -/

/-- Everything a read of one byte can do: from a device it is an event and the answer is the device's, elsewhere it is the
stored byte and nothing changes. -/
theorem readByte_cases (s : State) (a : Word) :
    (regionOf a = .devices ∧
      readByte s a = (Config.devRead s.devLog a, { s with devLog := s.devLog ++ [.read a] })) ∨
    (regionOf a ≠ .devices ∧ readByte s a = (s.stored a, s)) := by
  unfold readByte
  cases h : regionOf a <;> simp

@[simp] theorem readByte_regs (s : State) (a : Word) : (readByte s a).2.regs = s.regs := by
  rcases readByte_cases s a with ⟨_, h⟩ | ⟨_, h⟩ <;> simp [h]
@[simp] theorem readByte_flags (s : State) (a : Word) : (readByte s a).2.flags = s.flags := by
  rcases readByte_cases s a with ⟨_, h⟩ | ⟨_, h⟩ <;> simp [h]
@[simp] theorem readByte_mem (s : State) (a : Word) : (readByte s a).2.mem = s.mem := by
  rcases readByte_cases s a with ⟨_, h⟩ | ⟨_, h⟩ <;> simp [h]
@[simp] theorem readByte_requests (s : State) (a : Word) : (readByte s a).2.requests = s.requests := by
  rcases readByte_cases s a with ⟨_, h⟩ | ⟨_, h⟩ <;> simp [h]

/-- The devices have seen a read where the byte is theirs. -/
theorem readByte_devLog (s : State) (a : Word) :
    (readByte s a).2.devLog = if regionOf a = .devices then s.devLog ++ [.read a] else s.devLog := by
  rcases readByte_cases s a with ⟨hr, h⟩ | ⟨hr, h⟩ <;> simp [h, hr]

@[simp] theorem readWord_regs (s : State) (a : Word) : (readWord s a).2.regs = s.regs := by simp [readWord]
@[simp] theorem readWord_flags (s : State) (a : Word) : (readWord s a).2.flags = s.flags := by simp [readWord]
@[simp] theorem readWord_mem (s : State) (a : Word) : (readWord s a).2.mem = s.mem := by simp [readWord]
@[simp] theorem readWord_requests (s : State) (a : Word) : (readWord s a).2.requests = s.requests := by
  simp [readWord]
@[simp] theorem readWord_reg (s : State) (a : Word) (r : Reg) : (readWord s a).2.reg r = s.reg r := by
  simp [State.reg]

/-- Everything a read of several bytes keeps. -/
theorem readBytes_keeps (n : Nat) (a : Word) (s : State) :
    (readBytes n a s).2.regs = s.regs ∧ (readBytes n a s).2.flags = s.flags ∧
    (readBytes n a s).2.mem = s.mem ∧ (readBytes n a s).2.requests = s.requests := by
  induction n generalizing a s with
  | zero => exact ⟨rfl, rfl, rfl, rfl⟩
  | succ n ih =>
    obtain ⟨h1, h2, h3, h4⟩ := ih (a + 1#16) (readByte s a).2
    exact ⟨h1.trans (readByte_regs s a), h2.trans (readByte_flags s a), h3.trans (readByte_mem s a),
      h4.trans (readByte_requests s a)⟩

/-- A read of `n` bytes gives `n` bytes. -/
@[simp] theorem readBytes_length (n : Nat) (a : Word) (s : State) : (readBytes n a s).1.length = n := by
  induction n generalizing a s with
  | zero => rfl
  | succ n ih => simp [readBytes, ih]

end Sys2Proof.Machine
end

