-- ==== Sys2Proof/Laws/Ops.lean ====
section
/-! SUPPORT. One lemma for each shared operation that says everything it can do: operand fields, results and flags, memory
writes, the stack, the environment's move, interrupt entry and return. -/

namespace Sys2Proof.Machine

/-! ## Reg fields and sources -/

/-- A register's own field names it. -/
@[simp] theorem regOf_field (r : Reg) : regOf r.field = some r := by
  have h := r.isLt
  have hv : (r.field).toNat = r.val := by simp only [Reg.field, BitVec.toNat_ofNat]; omega
  simp [regOf, hv, h]

@[simp] theorem withReg_field (r : Reg) (k : Reg → Host.Outcome State Fault Refusal) :
    withReg r.field k = k r := by
  simp [withReg]

/-- A field either is a register's own, or names none and faults. -/
theorem withReg_cases (f : RegField) (k : Reg → Host.Outcome State Fault Refusal) :
    (∃ r, f = r.field ∧ withReg f k = k r) ∨
    (¬RegField.Names f ∧ withReg f k = .fault .illegalInstruction) := by
  by_cases h : f.toNat < 16
  · refine .inl ⟨⟨f.toNat, h⟩, ?_, by simp [withReg, regOf, h]⟩
    refine BitVec.eq_of_toNat_eq ?_
    simp only [Reg.field, BitVec.toNat_ofNat]
    omega
  · exact .inr ⟨h, by simp [withReg, regOf, h]⟩

/-- A meaning behind a Reg field that answers a next state named a register. -/
theorem withReg_next {f : RegField} {k : Reg → Host.Outcome State Fault Refusal} {t : State}
    (h : withReg f k = .next t) : ∃ r, f = r.field ∧ k r = .next t := by
  rcases withReg_cases f k with ⟨r, hf, hk⟩ | ⟨_, hk⟩
  · exact ⟨r, hf, hk ▸ h⟩
  · rw [hk] at h; cases h

/-- A meaning behind a Reg field that faults either faults for the register named, or the field names none. -/
theorem withReg_fault {f : RegField} {k : Reg → Host.Outcome State Fault Refusal} {g : Fault}
    (h : withReg f k = .fault g) :
    (∃ r, f = r.field ∧ k r = .fault g) ∨ (¬RegField.Names f ∧ g = .illegalInstruction) := by
  rcases withReg_cases f k with ⟨r, hf, hk⟩ | ⟨hf, hk⟩
  · exact .inl ⟨r, hf, hk ▸ h⟩
  · rw [hk] at h; exact .inr ⟨hf, by cases h; rfl⟩

@[simp] theorem withSource_lit (v : Word) (s : State) (k : Word → Host.Outcome State Fault Refusal) :
    withSource (.lit v) s k = k v := rfl

@[simp] theorem withSource_field (r : Reg) (s : State) (k : Word → Host.Outcome State Fault Refusal) :
    withSource (.reg r.field) s k = k (s.reg r) := by
  simp [withSource]

/-- A meaning behind ARG 2 that answers a next state answered it for some value. -/
theorem withSource_next {x : Source} {s t : State} {k : Word → Host.Outcome State Fault Refusal}
    (h : withSource x s k = .next t) : ∃ v, k v = .next t := by
  cases x with
  | reg f => obtain ⟨r, _, hr⟩ := withReg_next h; exact ⟨_, hr⟩
  | lit v => exact ⟨v, h⟩

/-- A meaning behind ARG 2 that faults either faults for its value, or ARG 2 is a field that names no register. -/
theorem withSource_fault {x : Source} {s : State} {k : Word → Host.Outcome State Fault Refusal} {g : Fault}
    (h : withSource x s k = .fault g) :
    (∃ r : Reg, x = .reg r.field ∧ k (s.reg r) = .fault g) ∨ (∃ v, x = .lit v ∧ k v = .fault g) ∨
    (∃ f, x = .reg f ∧ ¬RegField.Names f ∧ g = .illegalInstruction) := by
  cases x with
  | reg f =>
    rcases withReg_fault h with ⟨r, rfl, hr⟩ | ⟨hf, hg⟩
    · exact .inl ⟨r, rfl, hr⟩
    · exact .inr (.inr ⟨f, rfl, hf, hg⟩)
  | lit v => exact .inr (.inl ⟨v, rfl, h⟩)

@[simp] theorem narrow_word (v : Word) : narrow .word v = v.toNat := Nat.mod_eq_of_lt v.isLt

@[simp] theorem narrow_byte (v : Word) : narrow .byte v = v.toNat % 256 := rfl

/-- A word operand written back is itself. -/
@[simp] theorem zext16_toNat (v : Word) : zext16 v.toNat = v := by simp [zext16]

/-- The low byte of a byte operand is the low byte it came from. -/
@[simp] theorem loByte_zext16_mod (v : Word) : loByte (zext16 (v.toNat % 256)) = loByte v := by
  refine BitVec.eq_of_toNat_eq ?_
  simp only [loByte, zext16, BitVec.extractLsb'_toNat, BitVec.toNat_ofNat, Nat.shiftRight_zero]
  omega

/-! ## Results and flags -/

@[simp] theorem setCarry_regs (c : Option Bool) (s : State) : (setCarry c s).regs = s.regs := by cases c <;> rfl
@[simp] theorem setCarry_mem (c : Option Bool) (s : State) : (setCarry c s).mem = s.mem := by cases c <;> rfl
@[simp] theorem setCarry_devLog (c : Option Bool) (s : State) : (setCarry c s).devLog = s.devLog := by
  cases c <;> rfl
@[simp] theorem setCarry_requests (c : Option Bool) (s : State) : (setCarry c s).requests = s.requests := by
  cases c <;> rfl

@[simp] theorem setFlags_regs (w : Width) (o : Alu) (s : State) : (setFlags w o s).regs = s.regs := by
  simp [setFlags, setZN]
@[simp] theorem setFlags_mem (w : Width) (o : Alu) (s : State) : (setFlags w o s).mem = s.mem := by
  simp [setFlags, setZN]
@[simp] theorem setFlags_devLog (w : Width) (o : Alu) (s : State) : (setFlags w o s).devLog = s.devLog := by
  simp [setFlags, setZN]
@[simp] theorem setFlags_requests (w : Width) (o : Alu) (s : State) : (setFlags w o s).requests = s.requests := by
  simp [setFlags, setZN]
@[simp] theorem setFlags_reg (w : Width) (o : Alu) (s : State) (r : Reg) : (setFlags w o s).reg r = s.reg r := by
  simp [State.reg]
@[simp] theorem setFlags_stored (w : Width) (o : Alu) (s : State) (a : Word) :
    (setFlags w o s).stored a = s.stored a := by
  simp [State.stored]

/-- Every bit of FLAGS after an operation: Z and N from the result, C as the operation says or as it was. -/
theorem getLsbD_setFlags (w : Width) (o : Alu) (s : State) (k : Nat) :
    (setFlags w o s).flags.getLsbD k =
      if k = 0 then decide (o.result = 0)
      else if k = 1 then o.carry.getD (s.flag .c)
      else if k = 2 then o.result.testBit (bitsOf w - 1)
      else s.flags.getLsbD k := by
  unfold setFlags setZN setCarry
  cases o.carry <;> simp only [getLsbD_setFlag, Flag.pos, Option.getD] <;>
    by_cases h0 : k = 0 <;> by_cases h1 : k = 1 <;> by_cases h2 : k = 2 <;>
    simp_all [State.flag, Flag.pos]

/-- The flags after an operation. -/
theorem flag_setFlags (w : Width) (o : Alu) (s : State) (f : Flag) :
    (setFlags w o s).flag f =
      match f with
      | .z => decide (o.result = 0)
      | .c => o.carry.getD (s.flag .c)
      | .n => o.result.testBit (bitsOf w - 1)
      | f => s.flag f := by
  have h := getLsbD_setFlags w o s f.pos
  cases f <;> simpa [State.flag, Flag.pos] using h

/-! ## Memory writes and the stack -/

/-- Everything a memory write can do: the fault RomWrite where a byte of it is in ROM, its bytes stored where none is. -/
theorem memWrite_cases (w : Width) (s : State) (a v : Word) :
    (w = .byte ∧ inRom a = true ∧ memWrite w s a v = .fault .romWrite) ∨
    (w = .word ∧ wordInRom a = true ∧ memWrite w s a v = .fault .romWrite) ∨
    (w = .byte ∧ inRom a = false ∧ memWrite w s a v = .next (storeByte s a (loByte v))) ∨
    (w = .word ∧ wordInRom a = false ∧ memWrite w s a v = .next (storeWord s a v)) := by
  cases w with
  | byte => cases h : inRom a <;> simp [memWrite, h]
  | word => cases h : wordInRom a <;> simp [memWrite, h]

/-- Everything a push can do: the fault RomWrite, or the word pushed and then the rest. -/
theorem push_cases (s : State) (v : Word) (k : State → State) :
    (wordInRom (s.reg Reg.sp - 2#16) = true ∧ push s v k = .fault .romWrite) ∨
    (wordInRom (s.reg Reg.sp - 2#16) = false ∧ push s v k = .next (k (pushWord s v))) := by
  cases h : wordInRom (s.reg Reg.sp - 2#16) <;> simp [push, h]

@[simp] theorem pushWord_flags (s : State) (v : Word) : (pushWord s v).flags = s.flags := by simp [pushWord]
@[simp] theorem pushWord_requests (s : State) (v : Word) : (pushWord s v).requests = s.requests := by
  simp [pushWord]

/-- Every register after a push: SP 2 lower, the others as they were. -/
theorem reg_pushWord (s : State) (v : Word) (r : Reg) :
    (pushWord s v).reg r = if r = Reg.sp then s.reg Reg.sp - 2#16 else s.reg r := by
  simp [pushWord, reg_setReg]

/-- What every byte reads as after a push. -/
theorem stored_pushWord (s : State) (v x : Word) :
    (pushWord s v).stored x =
      if regionOf (s.reg Reg.sp - 2#16 + 1#16) = .ram ∧ x = s.reg Reg.sp - 2#16 + 1#16 then loByte v
      else if regionOf (s.reg Reg.sp - 2#16) = .ram ∧ x = s.reg Reg.sp - 2#16 then hiByte v else s.stored x := by
  simp [pushWord, stored_storeWord]

/-- What the devices have seen after a push. -/
theorem devLog_pushWord (s : State) (v : Word) :
    (pushWord s v).devLog =
      s.devLog ++ (if regionOf (s.reg Reg.sp - 2#16) = .devices then [.write (s.reg Reg.sp - 2#16) (hiByte v)] else []) ++
        (if regionOf (s.reg Reg.sp - 2#16 + 1#16) = .devices then [.write (s.reg Reg.sp - 2#16 + 1#16) (loByte v)] else []) := by
  simp [pushWord, devLog_storeWord]

/-- A push keeps the canonical form of the memory. -/
theorem wf_pushWord (s : State) (v : Word) (h : Memory.wf s.mem = true) : Memory.wf (pushWord s v).mem = true :=
  wf_storeWord _ _ _ h

@[simp] theorem pull_flags (s : State) : (pull s).2.flags = s.flags := by simp [pull]
@[simp] theorem pull_mem (s : State) : (pull s).2.mem = s.mem := by simp [pull]
@[simp] theorem pull_requests (s : State) : (pull s).2.requests = s.requests := by simp [pull]
@[simp] theorem pull_stored (s : State) (a : Word) : (pull s).2.stored a = s.stored a := by simp [State.stored]

/-- Every register after a pull: SP 2 higher, the others as they were. -/
theorem reg_pull (s : State) (r : Reg) :
    (pull s).2.reg r = if r = Reg.sp then s.reg Reg.sp + 2#16 else s.reg r := by
  simp [pull, reg_setReg]

/-! ## The environment and the interrupt -/

/-- Everything the environment's move can do: the schedule one shorter, and IP set or nothing else. -/
theorem environmentMoves_cases (s : State) :
    (s.requests = [] ∧ environmentMoves s = s) ∨
    (∃ rest, s.requests = true :: rest ∧
      environmentMoves s = State.setFlag { s with requests := rest } .ip true) ∨
    (∃ rest, s.requests = false :: rest ∧ environmentMoves s = { s with requests := rest }) := by
  unfold environmentMoves
  cases h : s.requests with
  | nil => simp
  | cons b rest => cases b <;> simp

/-- Everything interrupt entry can do: the fault RomWrite, or PC and FLAGS pushed, IP cleared, ID set, and control at the
vector. -/
theorem interruptEntry_cases (s : State) :
    ((wordInRom (s.reg Reg.sp - 4#16) || wordInRom (s.reg Reg.sp - 2#16)) = true ∧
      interruptEntry s = .fault .romWrite) ∨
    ((wordInRom (s.reg Reg.sp - 4#16) || wordInRom (s.reg Reg.sp - 2#16)) = false ∧
      interruptEntry s = .next
        (((pushWord (pushWord (s.setFlag .ip false) (s.reg Reg.pc)) ((s.setFlag .ip false).flags.setWidth 16)).setFlag
          .id true).setReg Reg.pc Config.irqVector)) := by
  cases h : (wordInRom (s.reg Reg.sp - 4#16) || wordInRom (s.reg Reg.sp - 2#16)) <;> simp [interruptEntry, h]

/-- The bits of FLAGS after a return: 3 to 0 pulled, the others kept. -/
theorem getLsbD_restoreFlags (old : Byte) (w : Word) (k : Nat) (hk : k < 8) :
    (restoreFlags old w).getLsbD k = if k < 4 then w.getLsbD k else old.getLsbD k := by
  have key : ∀ j : Fin 8, (restoreFlags old w).getLsbD j = if j.val < 4 then w.getLsbD j else old.getLsbD j := by
    intro j
    fin_cases j <;> simp [restoreFlags, loByte]
  exact key ⟨k, hk⟩

end Sys2Proof.Machine
end

