-- ==== Sys2Proof/Laws/Forms.lean ====
section
/-! SUPPORT. What each shared form of an instruction can do: the next states it answers, and what a written-back result
leaves. -/

namespace Sys2Proof.Machine

/-! ## A result written back -/

@[simp] theorem commit_mem (w : Width) (d : Reg) (o : Alu) (s : State) : (commit w d o s).mem = s.mem := by
  simp [commit]
@[simp] theorem commit_devLog (w : Width) (d : Reg) (o : Alu) (s : State) : (commit w d o s).devLog = s.devLog := by
  simp [commit]
@[simp] theorem commit_requests (w : Width) (d : Reg) (o : Alu) (s : State) :
    (commit w d o s).requests = s.requests := by
  simp [commit]
@[simp] theorem commit_stored (w : Width) (d : Reg) (o : Alu) (s : State) (a : Word) :
    (commit w d o s).stored a = s.stored a := by
  simp [commit]
@[simp] theorem commit_flags (w : Width) (d : Reg) (o : Alu) (s : State) :
    (commit w d o s).flags = (setFlags w o s).flags := rfl

/-- Every register after a result is written back. -/
theorem reg_commit (w : Width) (d : Reg) (o : Alu) (s : State) (r : Reg) :
    (commit w d o s).reg r = if r = d then zext16 o.result else s.reg r := by
  simp [commit, reg_setReg]

/-! ## The next states of each form -/

/-- A two-argument operation that completes has written its result to the register of ARG 1. -/
theorem binary_next {w : Width} {f : Nat → Nat → Alu} {r1 : RegField} {x : Source} {s t : State}
    (h : binary w f r1 x s = .next t) :
    ∃ d v, r1 = d.field ∧ t = commit w d (f (narrow w (s.reg d)) (narrow w v)) s := by
  obtain ⟨d, hd, h⟩ := withReg_next h
  obtain ⟨v, h⟩ := withSource_next h
  exact ⟨d, v, hd, by cases h; rfl⟩

/-- A division that completes had a divisor that is not 0. -/
theorem dividing_next {w : Width} {f : Nat → Nat → Alu} {r1 : RegField} {x : Source} {s t : State}
    (h : dividing w f r1 x s = .next t) :
    ∃ d v, r1 = d.field ∧ narrow w v ≠ 0 ∧ t = commit w d (f (narrow w (s.reg d)) (narrow w v)) s := by
  obtain ⟨d, hd, h⟩ := withReg_next h
  obtain ⟨v, h⟩ := withSource_next h
  split at h
  · cases h
  · exact ⟨d, v, hd, ‹_›, by cases h; rfl⟩

/-- A one-argument operation that completes has written its result to its register. -/
theorem unary_next {w : Width} {f : Nat → Alu} {r1 : RegField} {s t : State} (h : unary w f r1 s = .next t) :
    ∃ d, r1 = d.field ∧ t = commit w d (f (narrow w (s.reg d))) s := by
  obtain ⟨d, hd, h⟩ := withReg_next h
  exact ⟨d, hd, by cases h; rfl⟩

/-- A comparison that completes has written flags only. -/
theorem comparing_next {w : Width} {r1 : RegField} {x : Source} {s t : State} (h : comparing w r1 x s = .next t) :
    ∃ d v, r1 = d.field ∧ t = setFlags w (subAlu w (narrow w (s.reg d)) (narrow w v)) s := by
  obtain ⟨d, hd, h⟩ := withReg_next h
  obtain ⟨v, h⟩ := withSource_next h
  exact ⟨d, v, hd, by cases h; rfl⟩

/-- A move that completes has written its register only. -/
theorem moving_next {w : Width} {r1 : RegField} {x : Source} {s t : State} (h : moving w r1 x s = .next t) :
    ∃ d v, r1 = d.field ∧ t = s.setReg d (zext16 (narrow w v)) := by
  obtain ⟨d, hd, h⟩ := withReg_next h
  obtain ⟨v, h⟩ := withSource_next h
  exact ⟨d, v, hd, by cases h; rfl⟩

/-- A store that completes is a memory write at the address in the register of ARG 1. -/
theorem storing_next {w : Width} {r1 : RegField} {x : Source} {s t : State} (h : storing w r1 x s = .next t) :
    ∃ d v, r1 = d.field ∧ memWrite w s (s.reg d) (zext16 (narrow w v)) = .next t := by
  obtain ⟨d, hd, h⟩ := withReg_next h
  obtain ⟨v, h⟩ := withSource_next h
  exact ⟨d, v, hd, h⟩

/-- A jump that completes has written the PC, or nothing. -/
theorem jumping_next {c : Bool} {x : Source} {s t : State} (h : jumping c x s = .next t) :
    (c = true ∧ ∃ v, t = s.setReg Reg.pc v) ∨ (c = false ∧ t = s) := by
  obtain ⟨v, h⟩ := withSource_next h
  cases c <;> cases h
  · exact .inr ⟨rfl, rfl⟩
  · exact .inl ⟨rfl, v, rfl⟩

end Sys2Proof.Machine
end

