-- ==== Sys2Proof/Laws/PerInstr.lean ====
section
/-! SUPPORT. Statements about every instruction as syntax, one lemma for each constructor. -/

namespace Sys2Proof.Laws

/-- The encoding of an instruction is as long as its first byte announces (30_encoding.md R54, R61), and the first byte
is a legal one (R60). -/
def EncodingLength.Statement (i : Instr) : Prop := lengthOf i.row.firstByte = .ok (encode i).length

theorem EncodingLength.nop : EncodingLength.Statement (.nop) :=
  lengthOf_firstByte _
theorem EncodingLength.hlt : EncodingLength.Statement (.hlt) :=
  lengthOf_firstByte _
theorem EncodingLength.movRR (r1 : RegField) (r2 : RegField) : EncodingLength.Statement (.movRR r1 r2) :=
  lengthOf_firstByte _
theorem EncodingLength.movRL (r1 : RegField) (k : Word) : EncodingLength.Statement (.movRL r1 k) :=
  lengthOf_firstByte _
theorem EncodingLength.movBRR (r1 : RegField) (r2 : RegField) : EncodingLength.Statement (.movBRR r1 r2) :=
  lengthOf_firstByte _
theorem EncodingLength.movBRL (r1 : RegField) (k : Word) : EncodingLength.Statement (.movBRL r1 k) :=
  lengthOf_firstByte _
theorem EncodingLength.movIndRR (r1 : RegField) (r2 : RegField) : EncodingLength.Statement (.movIndRR r1 r2) :=
  lengthOf_firstByte _
theorem EncodingLength.movIndRL (r1 : RegField) (k : Word) : EncodingLength.Statement (.movIndRL r1 k) :=
  lengthOf_firstByte _
theorem EncodingLength.movBIndRR (r1 : RegField) (r2 : RegField) : EncodingLength.Statement (.movBIndRR r1 r2) :=
  lengthOf_firstByte _
theorem EncodingLength.movBIndRL (r1 : RegField) (k : Word) : EncodingLength.Statement (.movBIndRL r1 k) :=
  lengthOf_firstByte _
theorem EncodingLength.phrR (r1 : RegField) : EncodingLength.Statement (.phrR r1) :=
  lengthOf_firstByte _
theorem EncodingLength.plrR (r1 : RegField) : EncodingLength.Statement (.plrR r1) :=
  lengthOf_firstByte _
theorem EncodingLength.addRR (r1 : RegField) (r2 : RegField) : EncodingLength.Statement (.addRR r1 r2) :=
  lengthOf_firstByte _
theorem EncodingLength.addRL (r1 : RegField) (k : Word) : EncodingLength.Statement (.addRL r1 k) :=
  lengthOf_firstByte _
theorem EncodingLength.addBRR (r1 : RegField) (r2 : RegField) : EncodingLength.Statement (.addBRR r1 r2) :=
  lengthOf_firstByte _
theorem EncodingLength.addBRL (r1 : RegField) (k : Word) : EncodingLength.Statement (.addBRL r1 k) :=
  lengthOf_firstByte _
theorem EncodingLength.subRR (r1 : RegField) (r2 : RegField) : EncodingLength.Statement (.subRR r1 r2) :=
  lengthOf_firstByte _
theorem EncodingLength.subRL (r1 : RegField) (k : Word) : EncodingLength.Statement (.subRL r1 k) :=
  lengthOf_firstByte _
theorem EncodingLength.subBRR (r1 : RegField) (r2 : RegField) : EncodingLength.Statement (.subBRR r1 r2) :=
  lengthOf_firstByte _
theorem EncodingLength.subBRL (r1 : RegField) (k : Word) : EncodingLength.Statement (.subBRL r1 k) :=
  lengthOf_firstByte _
theorem EncodingLength.mulRR (r1 : RegField) (r2 : RegField) : EncodingLength.Statement (.mulRR r1 r2) :=
  lengthOf_firstByte _
theorem EncodingLength.mulRL (r1 : RegField) (k : Word) : EncodingLength.Statement (.mulRL r1 k) :=
  lengthOf_firstByte _
theorem EncodingLength.mulBRR (r1 : RegField) (r2 : RegField) : EncodingLength.Statement (.mulBRR r1 r2) :=
  lengthOf_firstByte _
theorem EncodingLength.mulBRL (r1 : RegField) (k : Word) : EncodingLength.Statement (.mulBRL r1 k) :=
  lengthOf_firstByte _
theorem EncodingLength.divRR (r1 : RegField) (r2 : RegField) : EncodingLength.Statement (.divRR r1 r2) :=
  lengthOf_firstByte _
theorem EncodingLength.divRL (r1 : RegField) (k : Word) : EncodingLength.Statement (.divRL r1 k) :=
  lengthOf_firstByte _
theorem EncodingLength.divBRR (r1 : RegField) (r2 : RegField) : EncodingLength.Statement (.divBRR r1 r2) :=
  lengthOf_firstByte _
theorem EncodingLength.divBRL (r1 : RegField) (k : Word) : EncodingLength.Statement (.divBRL r1 k) :=
  lengthOf_firstByte _
theorem EncodingLength.modRR (r1 : RegField) (r2 : RegField) : EncodingLength.Statement (.modRR r1 r2) :=
  lengthOf_firstByte _
theorem EncodingLength.modRL (r1 : RegField) (k : Word) : EncodingLength.Statement (.modRL r1 k) :=
  lengthOf_firstByte _
theorem EncodingLength.modBRR (r1 : RegField) (r2 : RegField) : EncodingLength.Statement (.modBRR r1 r2) :=
  lengthOf_firstByte _
theorem EncodingLength.modBRL (r1 : RegField) (k : Word) : EncodingLength.Statement (.modBRL r1 k) :=
  lengthOf_firstByte _
theorem EncodingLength.incR (r1 : RegField) : EncodingLength.Statement (.incR r1) :=
  lengthOf_firstByte _
theorem EncodingLength.incBR (r1 : RegField) : EncodingLength.Statement (.incBR r1) :=
  lengthOf_firstByte _
theorem EncodingLength.decR (r1 : RegField) : EncodingLength.Statement (.decR r1) :=
  lengthOf_firstByte _
theorem EncodingLength.decBR (r1 : RegField) : EncodingLength.Statement (.decBR r1) :=
  lengthOf_firstByte _
theorem EncodingLength.andRR (r1 : RegField) (r2 : RegField) : EncodingLength.Statement (.andRR r1 r2) :=
  lengthOf_firstByte _
theorem EncodingLength.andRL (r1 : RegField) (k : Word) : EncodingLength.Statement (.andRL r1 k) :=
  lengthOf_firstByte _
theorem EncodingLength.andBRR (r1 : RegField) (r2 : RegField) : EncodingLength.Statement (.andBRR r1 r2) :=
  lengthOf_firstByte _
theorem EncodingLength.andBRL (r1 : RegField) (k : Word) : EncodingLength.Statement (.andBRL r1 k) :=
  lengthOf_firstByte _
theorem EncodingLength.orRR (r1 : RegField) (r2 : RegField) : EncodingLength.Statement (.orRR r1 r2) :=
  lengthOf_firstByte _
theorem EncodingLength.orRL (r1 : RegField) (k : Word) : EncodingLength.Statement (.orRL r1 k) :=
  lengthOf_firstByte _
theorem EncodingLength.orBRR (r1 : RegField) (r2 : RegField) : EncodingLength.Statement (.orBRR r1 r2) :=
  lengthOf_firstByte _
theorem EncodingLength.orBRL (r1 : RegField) (k : Word) : EncodingLength.Statement (.orBRL r1 k) :=
  lengthOf_firstByte _
theorem EncodingLength.shlRR (r1 : RegField) (r2 : RegField) : EncodingLength.Statement (.shlRR r1 r2) :=
  lengthOf_firstByte _
theorem EncodingLength.shlRL (r1 : RegField) (k : Word) : EncodingLength.Statement (.shlRL r1 k) :=
  lengthOf_firstByte _
theorem EncodingLength.shrRR (r1 : RegField) (r2 : RegField) : EncodingLength.Statement (.shrRR r1 r2) :=
  lengthOf_firstByte _
theorem EncodingLength.shrRL (r1 : RegField) (k : Word) : EncodingLength.Statement (.shrRL r1 k) :=
  lengthOf_firstByte _
theorem EncodingLength.notR (r1 : RegField) : EncodingLength.Statement (.notR r1) :=
  lengthOf_firstByte _
theorem EncodingLength.notBR (r1 : RegField) : EncodingLength.Statement (.notBR r1) :=
  lengthOf_firstByte _
theorem EncodingLength.cmpRR (r1 : RegField) (r2 : RegField) : EncodingLength.Statement (.cmpRR r1 r2) :=
  lengthOf_firstByte _
theorem EncodingLength.cmpRL (r1 : RegField) (k : Word) : EncodingLength.Statement (.cmpRL r1 k) :=
  lengthOf_firstByte _
theorem EncodingLength.cmpBRR (r1 : RegField) (r2 : RegField) : EncodingLength.Statement (.cmpBRR r1 r2) :=
  lengthOf_firstByte _
theorem EncodingLength.cmpBRL (r1 : RegField) (k : Word) : EncodingLength.Statement (.cmpBRL r1 k) :=
  lengthOf_firstByte _
theorem EncodingLength.jmpR (r1 : RegField) : EncodingLength.Statement (.jmpR r1) :=
  lengthOf_firstByte _
theorem EncodingLength.jmpL (k : Word) : EncodingLength.Statement (.jmpL k) :=
  lengthOf_firstByte _
theorem EncodingLength.jzR (r1 : RegField) : EncodingLength.Statement (.jzR r1) :=
  lengthOf_firstByte _
theorem EncodingLength.jzL (k : Word) : EncodingLength.Statement (.jzL k) :=
  lengthOf_firstByte _
theorem EncodingLength.jnzR (r1 : RegField) : EncodingLength.Statement (.jnzR r1) :=
  lengthOf_firstByte _
theorem EncodingLength.jnzL (k : Word) : EncodingLength.Statement (.jnzL k) :=
  lengthOf_firstByte _
theorem EncodingLength.jnR (r1 : RegField) : EncodingLength.Statement (.jnR r1) :=
  lengthOf_firstByte _
theorem EncodingLength.jnL (k : Word) : EncodingLength.Statement (.jnL k) :=
  lengthOf_firstByte _
theorem EncodingLength.jnnR (r1 : RegField) : EncodingLength.Statement (.jnnR r1) :=
  lengthOf_firstByte _
theorem EncodingLength.jnnL (k : Word) : EncodingLength.Statement (.jnnL k) :=
  lengthOf_firstByte _
theorem EncodingLength.jcR (r1 : RegField) : EncodingLength.Statement (.jcR r1) :=
  lengthOf_firstByte _
theorem EncodingLength.jcL (k : Word) : EncodingLength.Statement (.jcL k) :=
  lengthOf_firstByte _
theorem EncodingLength.jncR (r1 : RegField) : EncodingLength.Statement (.jncR r1) :=
  lengthOf_firstByte _
theorem EncodingLength.jncL (k : Word) : EncodingLength.Statement (.jncL k) :=
  lengthOf_firstByte _
theorem EncodingLength.jsbL (k : Word) : EncodingLength.Statement (.jsbL k) :=
  lengthOf_firstByte _
theorem EncodingLength.rsb : EncodingLength.Statement (.rsb) :=
  lengthOf_firstByte _
theorem EncodingLength.cli : EncodingLength.Statement (.cli) :=
  lengthOf_firstByte _
theorem EncodingLength.sei : EncodingLength.Statement (.sei) :=
  lengthOf_firstByte _
theorem EncodingLength.rsi : EncodingLength.Statement (.rsi) :=
  lengthOf_firstByte _

end Sys2Proof.Laws
end

