-- ==== Sys2Proof/Laws/Step.lean ====
section
/-! SUPPORT. Everything a fetch and a step can do. -/

namespace Sys2Proof.Machine

/-- A fetch that succeeds has read bytes only, and moved the PC past the instruction. -/
theorem fetch_ok {s : State} {f : Fetched} (h : fetch s = .ok f) :
    ∃ n rest, decode ((readByte s (s.reg Reg.pc)).1 ::
        (readBytes n (s.reg Reg.pc + 1#16) (readByte s (s.reg Reg.pc)).2).1) = .ok (f.instr, rest) ∧
      f.state = advancePc (readBytes n (s.reg Reg.pc + 1#16) (readByte s (s.reg Reg.pc)).2).2 (s.reg Reg.pc)
        (n + 1) := by
  unfold fetch at h
  simp only at h
  split at h
  · cases h
  · rename_i len hlen
    have hpos : 0 < len := by
      unfold lengthOf at hlen
      split at hlen
      · cases hlen
      · rename_i g _
        cases hlen
        cases g <;> simp [Form.len]
    split at h
    · cases h
    · rename_i i rest hd
      cases h
      refine ⟨len - 1, rest, hd, ?_⟩
      rw [Nat.sub_add_cancel hpos]

/-- Everything a step can do: a halted machine only hears the environment, a pending enabled interrupt is taken, bytes that
are no instruction fault, an instruction is executed. -/
theorem step_cases (s : State) :
    ((environmentMoves s).flag .h = true ∧ step s = .next (environmentMoves s)) ∨
    ((environmentMoves s).flag .h = false ∧ (environmentMoves s).takesInterrupt = true ∧
      step s = interruptEntry (environmentMoves s)) ∨
    ((environmentMoves s).flag .h = false ∧ (environmentMoves s).takesInterrupt = false ∧
      ((∃ e, fetch (environmentMoves s) = .error e ∧ step s = .fault .illegalInstruction) ∨
        ∃ f, fetch (environmentMoves s) = .ok f ∧ step s = exec f.instr f.state)) := by
  unfold step
  cases hh : (environmentMoves s).flag .h
  · cases hi : (environmentMoves s).takesInterrupt
    · cases hf : fetch (environmentMoves s) <;> simp [hh, hi, hf]
    · simp [hh, hi]
  · simp [hh]

end Sys2Proof.Machine
end

