-- ==== Sys2Proof/Tests/Slice0.lean ====
section
/-! SUPPORT. Tests. Every expected value is the spec's: the words and the steps are the derived vectors of
95_test_vectors.md section 2, whose numbers the spec computes from its rules. After them, for each statement with hypotheses,
states and operands that meet them. -/

namespace Sys2Proof.Machine

/-! ## Helpers -/

/-- Registers given values. -/
def Tests.setRegs : List (Reg × Word) → State → State
  | [], s => s
  | (r, v) :: rest, s => Tests.setRegs rest (s.setReg r v)

/-- Bytes placed at addresses. -/
def Tests.setCells : List (Word × List Byte) → Memory → Memory
  | [], m => m
  | (a, bs) :: rest, m => Tests.setCells rest (placeBytes bs a m)

/-- The state of a vector: the code at 0x0100 and the PC there, FLAGS, registers, bytes of memory. -/
def Tests.start (code : List Byte) (flags : Byte) (regs : List (Reg × Word)) (cells : List (Word × List Byte)) : State :=
  { Tests.setRegs regs (State.reset.setReg Reg.pc 0x0100) with
    flags := flags, mem := Tests.setCells cells (placeBytes code 0x0100 []) }

/-- Whether memory lists the bytes given. -/
def Tests.lists (m : Memory) : List (Word × List Byte) → Bool
  | [] => true
  | (a, bs) :: rest => decide (readBytes bs.length a { State.reset with mem := m } = (bs, { State.reset with mem := m })) &&
      Tests.lists m rest

/-- Whether one step leads to the registers, FLAGS, bytes of memory and device accesses given. -/
def Tests.reaches (s : State) (regs : List (Reg × Word)) (flags : Byte) (cells : List (Word × List Byte))
    (events : List DevEvent) : Bool :=
  match step s with
  | .next t => (regs.all fun p => t.reg p.1 == p.2) && t.flags == flags && Tests.lists t.mem cells &&
      decide (t.devLog = events)
  | _ => false

/-- Whether one step ends in the fault given. -/
def Tests.faults (s : State) (f : Fault) : Bool :=
  match step s with
  | .fault g => decide (g = f)
  | _ => false

open Tests

/-! ## Well-formedness: each check refuses an ill-formed term -/

theorem test_wellFormed_refuses_reg : ¬(Instr.incR 16).WellFormed := by decide
theorem test_wellFormed_refuses_first_of_regReg : ¬(Instr.addRR 16 0).WellFormed := by decide
theorem test_wellFormed_refuses_second_of_regReg : ¬(Instr.addRR 0 0xFF).WellFormed := by decide
theorem test_wellFormed_refuses_reg_of_regLit : ¬(Instr.movIndRL 0x80 0).WellFormed := by decide
theorem test_wellFormed_accepts_highest_register : (Instr.addRR 15 15).WellFormed := by decide

/-! ## Decoding: one word for each of the 73 forms (95_test_vectors.md section 2.0) -/

theorem test_decode_control :
    decodeTableWord 8 0x00 = some (.nop) ∧
    decodeTableWord 8 0x08 = some (.hlt) := by
  decide

theorem test_decode_dataTransfer :
    decodeTableWord 24 0x10050A = some (.movRR 5 10) ∧
    decodeTableWord 32 0x12051234 = some (.movRL 5 0x1234) ∧
    decodeTableWord 24 0x14050A = some (.movBRR 5 10) ∧
    decodeTableWord 32 0x16051234 = some (.movBRL 5 0x1234) ∧
    decodeTableWord 24 0x11050A = some (.movIndRR 5 10) ∧
    decodeTableWord 32 0x13051234 = some (.movIndRL 5 0x1234) ∧
    decodeTableWord 24 0x15050A = some (.movBIndRR 5 10) ∧
    decodeTableWord 32 0x17051234 = some (.movBIndRL 5 0x1234) ∧
    decodeTableWord 16 0x1805 = some (.phrR 5) ∧
    decodeTableWord 16 0x2005 = some (.plrR 5) := by
  decide

theorem test_decode_arithmetic_1 :
    decodeTableWord 24 0x28050A = some (.addRR 5 10) ∧
    decodeTableWord 32 0x2A051234 = some (.addRL 5 0x1234) ∧
    decodeTableWord 24 0x2C050A = some (.addBRR 5 10) ∧
    decodeTableWord 32 0x2E051234 = some (.addBRL 5 0x1234) ∧
    decodeTableWord 24 0x30050A = some (.subRR 5 10) ∧
    decodeTableWord 32 0x32051234 = some (.subRL 5 0x1234) ∧
    decodeTableWord 24 0x34050A = some (.subBRR 5 10) ∧
    decodeTableWord 32 0x36051234 = some (.subBRL 5 0x1234) ∧
    decodeTableWord 24 0x38050A = some (.mulRR 5 10) ∧
    decodeTableWord 32 0x3A051234 = some (.mulRL 5 0x1234) ∧
    decodeTableWord 24 0x3C050A = some (.mulBRR 5 10) ∧
    decodeTableWord 32 0x3E051234 = some (.mulBRL 5 0x1234) ∧
    decodeTableWord 24 0x40050A = some (.divRR 5 10) ∧
    decodeTableWord 32 0x42051234 = some (.divRL 5 0x1234) := by
  decide

theorem test_decode_arithmetic_2 :
    decodeTableWord 24 0x44050A = some (.divBRR 5 10) ∧
    decodeTableWord 32 0x46051234 = some (.divBRL 5 0x1234) ∧
    decodeTableWord 24 0x48050A = some (.modRR 5 10) ∧
    decodeTableWord 32 0x4A051234 = some (.modRL 5 0x1234) ∧
    decodeTableWord 24 0x4C050A = some (.modBRR 5 10) ∧
    decodeTableWord 32 0x4E051234 = some (.modBRL 5 0x1234) ∧
    decodeTableWord 16 0x5005 = some (.incR 5) ∧
    decodeTableWord 16 0x5405 = some (.incBR 5) ∧
    decodeTableWord 16 0x5805 = some (.decR 5) ∧
    decodeTableWord 16 0x5C05 = some (.decBR 5) := by
  decide

theorem test_decode_logic :
    decodeTableWord 24 0x60050A = some (.andRR 5 10) ∧
    decodeTableWord 32 0x62051234 = some (.andRL 5 0x1234) ∧
    decodeTableWord 24 0x64050A = some (.andBRR 5 10) ∧
    decodeTableWord 32 0x66051234 = some (.andBRL 5 0x1234) ∧
    decodeTableWord 24 0x68050A = some (.orRR 5 10) ∧
    decodeTableWord 32 0x6A051234 = some (.orRL 5 0x1234) ∧
    decodeTableWord 24 0x6C050A = some (.orBRR 5 10) ∧
    decodeTableWord 32 0x6E051234 = some (.orBRL 5 0x1234) ∧
    decodeTableWord 24 0x70050A = some (.shlRR 5 10) ∧
    decodeTableWord 32 0x72051234 = some (.shlRL 5 0x1234) ∧
    decodeTableWord 24 0x78050A = some (.shrRR 5 10) ∧
    decodeTableWord 32 0x7A051234 = some (.shrRL 5 0x1234) ∧
    decodeTableWord 16 0x8005 = some (.notR 5) ∧
    decodeTableWord 16 0x8405 = some (.notBR 5) := by
  decide

theorem test_decode_comparison :
    decodeTableWord 24 0x88050A = some (.cmpRR 5 10) ∧
    decodeTableWord 32 0x8A051234 = some (.cmpRL 5 0x1234) ∧
    decodeTableWord 24 0x8C050A = some (.cmpBRR 5 10) ∧
    decodeTableWord 32 0x8E051234 = some (.cmpBRL 5 0x1234) := by
  decide

theorem test_decode_controlFlow_1 :
    decodeTableWord 16 0x9005 = some (.jmpR 5) ∧
    decodeTableWord 24 0x921234 = some (.jmpL 0x1234) ∧
    decodeTableWord 16 0x9805 = some (.jzR 5) ∧
    decodeTableWord 24 0x9A1234 = some (.jzL 0x1234) ∧
    decodeTableWord 16 0xA005 = some (.jnzR 5) ∧
    decodeTableWord 24 0xA21234 = some (.jnzL 0x1234) ∧
    decodeTableWord 16 0xA805 = some (.jnR 5) ∧
    decodeTableWord 24 0xAA1234 = some (.jnL 0x1234) ∧
    decodeTableWord 16 0xB005 = some (.jnnR 5) ∧
    decodeTableWord 24 0xB21234 = some (.jnnL 0x1234) ∧
    decodeTableWord 16 0xB805 = some (.jcR 5) ∧
    decodeTableWord 24 0xBA1234 = some (.jcL 0x1234) ∧
    decodeTableWord 16 0xC005 = some (.jncR 5) ∧
    decodeTableWord 24 0xC21234 = some (.jncL 0x1234) := by
  decide

theorem test_decode_controlFlow_2 :
    decodeTableWord 24 0xCA1234 = some (.jsbL 0x1234) ∧
    decodeTableWord 8 0xD0 = some (.rsb) := by
  decide

theorem test_decode_interruptHandle :
    decodeTableWord 8 0xD8 = some (.cli) ∧
    decodeTableWord 8 0xE0 = some (.sei) ∧
    decodeTableWord 8 0xE8 = some (.rsi) := by
  decide

/-! ## Illegal encodings (95_test_vectors.md section 2.9) -/

theorem test_decode_illegal_first_byte :
    decodeTableWord 8 0xF0 = none ∧
    decodeTableWord 8 0xFF = none ∧
    decodeTableWord 8 0x01 = none ∧
    decodeTableWord 8 0x04 = none ∧
    decodeTableWord 16 0x1901 = none ∧
    decodeTableWord 16 0x1C01 = none ∧
    decodeTableWord 24 0x290102 = none ∧
    decodeTableWord 16 0x5201 = none ∧
    decodeTableWord 24 0x740102 = none ∧
    decodeTableWord 32 0x7E010001 = none ∧
    decodeTableWord 16 0x9401 = none ∧
    decodeTableWord 16 0xC801 = none ∧
    decodeTableWord 24 0xCE0200 = none ∧
    decodeTableWord 8 0xD1 = none := by
  decide

theorem test_decode_no_such_register :
    decodeTableWord 24 0x101001 = none ∧
    decodeTableWord 24 0x1001FF = none ∧
    decodeTableWord 16 0x5080 = none ∧
    decodeTableWord 16 0x901E = none := by
  decide

theorem test_step_illegal :
    faults (start [0x10, 0x01, 0xFF] 0x00 [(1, 0x0001)] []) .illegalInstruction = true := by decide

/-! ## One step each (95_test_vectors.md sections 2.1 to 2.7; the RSI rows, which stand at 0x0010 there, at 0x0100) -/

/-- `NOP`: FLAGS=0x00; then FLAGS=0x00, PC=0x0101. -/
theorem test_nop_1 :
    reaches (start [0x00] 0x00 [] []) [(14, 0x0101)] 0x00 [] [] = true := by
  decide

/-- `HLT`: FLAGS=0x1F; then FLAGS=0x9F, PC=0x0101. -/
theorem test_hlt_1 :
    reaches (start [0x08] 0x1F [] []) [(14, 0x0101)] 0x9F [] [] = true := by
  decide

/-- `MOV R1, PC`: R1=0x0000, FLAGS=0x00; then R1=0x0103, FLAGS=0x00, PC=0x0103. -/
theorem test_movRR_1 :
    reaches (start [0x10, 0x01, 0x0E] 0x00 [(1, 0x0000)] []) [(1, 0x0103), (14, 0x0103)] 0x00 [] [] = true := by
  decide

/-- `MOV R1, R2`: R1=0x1111, R2=0xBEEF, FLAGS=0x00; then R1=0xBEEF, FLAGS=0x00, PC=0x0103. -/
theorem test_movRR_2 :
    reaches (start [0x10, 0x01, 0x02] 0x00 [(1, 0x1111), (2, 0xBEEF)] []) [(1, 0xBEEF), (14, 0x0103)] 0x00 [] [] =
      true := by
  decide

/-- `MOV SP, #0xF000`: FLAGS=0x08; then SP=0xF000, FLAGS=0x08, PC=0x0104. -/
theorem test_movRL_1 :
    reaches (start [0x12, 0x0F, 0xF0, 0x00] 0x08 [] []) [(15, 0xF000), (14, 0x0104)] 0x08 [] [] = true := by
  decide

/-- `MOV.B R1, R1`: R1=0xABCD, FLAGS=0x00; then R1=0x00CD, FLAGS=0x00, PC=0x0103. -/
theorem test_movBRR_1 :
    reaches (start [0x14, 0x01, 0x01] 0x00 [(1, 0xABCD)] []) [(1, 0x00CD), (14, 0x0103)] 0x00 [] [] = true := by
  decide

/-- `MOV.B R1, #0x1234`: R1=0xFFFF, FLAGS=0x00; then R1=0x0034, FLAGS=0x00, PC=0x0104. -/
theorem test_movBRL_1 :
    reaches (start [0x16, 0x01, 0x12, 0x34] 0x00 [(1, 0xFFFF)] []) [(1, 0x0034), (14, 0x0104)] 0x00 [] [] = true := by
  decide

/-- `MOV R1*, R2`: R1=0xEFFF, R2=0xA1B2, FLAGS=0x00; then FLAGS=0x00, PC=0x0103, [0xEFFF..]=A1, Dev.write(0xF000,0xB2). -/
theorem test_movIndRR_1 :
    reaches (start [0x11, 0x01, 0x02] 0x00 [(1, 0xEFFF), (2, 0xA1B2)] []) [(14, 0x0103)] 0x00 [(0xEFFF, [0xA1])]
      [.write 0xF000 0xB2] = true := by
  decide

/-- `MOV R1*, R2`: R1=0x7FFE, R2=0xA1B2, FLAGS=0x00; then fault RomWrite; state unchanged, PC=0x0100. -/
theorem test_movIndRR_2 :
    faults (start [0x11, 0x01, 0x02] 0x00 [(1, 0x7FFE), (2, 0xA1B2)] []) .romWrite = true := by
  decide

/-- `MOV R1*, #0x1234`: R1=0x8001, FLAGS=0x00; then FLAGS=0x00, PC=0x0104, [0x8001..]=12 34. -/
theorem test_movIndRL_1 :
    reaches (start [0x13, 0x01, 0x12, 0x34] 0x00 [(1, 0x8001)] []) [(14, 0x0104)] 0x00 [(0x8001, [0x12, 0x34])] []
      = true := by
  decide

/-- `MOV.B R1*, R2`: R1=0x8000, R2=0xBEEF, FLAGS=0x00, [0x8000..]=11 22; then FLAGS=0x00, PC=0x0103, [0x8000..]=EF. -/
theorem test_movBIndRR_1 :
    reaches (start [0x15, 0x01, 0x02] 0x00 [(1, 0x8000), (2, 0xBEEF)] [(0x8000, [0x11, 0x22])]) [(14, 0x0103)]
      0x00 [(0x8000, [0xEF])] [] = true := by
  decide

/-- `MOV.B R1*, #0x0041`: R1=0xFFFF, FLAGS=0x00; then FLAGS=0x00, PC=0x0104, Dev.write(0xFFFF,0x41). -/
theorem test_movBIndRL_1 :
    reaches (start [0x17, 0x01, 0x00, 0x41] 0x00 [(1, 0xFFFF)] []) [(14, 0x0104)] 0x00 [] [.write 0xFFFF 0x41] =
      true := by
  decide

/-- `PHR SP`: SP=0x9000, FLAGS=0x00; then SP=0x8FFE, FLAGS=0x00, PC=0x0102, [0x8FFE..]=90 00. -/
theorem test_phrR_1 :
    reaches (start [0x18, 0x0F] 0x00 [(15, 0x9000)] []) [(15, 0x8FFE), (14, 0x0102)] 0x00 [(0x8FFE, [0x90, 0x00])]
      [] = true := by
  decide

/-- `PHR R1`: R1=0xBEEF, SP=0x8001, FLAGS=0x00; then fault RomWrite; state unchanged, PC=0x0100. -/
theorem test_phrR_2 :
    faults (start [0x18, 0x01] 0x00 [(1, 0xBEEF), (15, 0x8001)] []) .romWrite = true := by
  decide

/-- `PLR SP`: SP=0x8FFE, FLAGS=0x00, [0x8FFE..]=12 34; then SP=0x1234, FLAGS=0x00, PC=0x0102. -/
theorem test_plrR_1 :
    reaches (start [0x20, 0x0F] 0x00 [(15, 0x8FFE)] [(0x8FFE, [0x12, 0x34])]) [(15, 0x1234), (14, 0x0102)] 0x00 []
      [] = true := by
  decide

/-- `PLR PC`: SP=0x8FFE, FLAGS=0x00, [0x8FFE..]=02 00; then SP=0x9000, FLAGS=0x00, PC=0x0200. -/
theorem test_plrR_2 :
    reaches (start [0x20, 0x0E] 0x00 [(15, 0x8FFE)] [(0x8FFE, [0x02, 0x00])]) [(15, 0x9000), (14, 0x0200)] 0x00 []
      [] = true := by
  decide

/-- `ADD R1, R1`: R1=0x8000, FLAGS=0x00; then R1=0x0000, FLAGS=0x03, PC=0x0103. -/
theorem test_addRR_1 :
    reaches (start [0x28, 0x01, 0x01] 0x00 [(1, 0x8000)] []) [(1, 0x0000), (14, 0x0103)] 0x03 [] [] = true := by
  decide

/-- `ADD R1, R2`: R1=0xFFFF, R2=0x0001, FLAGS=0x00; then R1=0x0000, FLAGS=0x03, PC=0x0103. -/
theorem test_addRR_2 :
    reaches (start [0x28, 0x01, 0x02] 0x00 [(1, 0xFFFF), (2, 0x0001)] []) [(1, 0x0000), (14, 0x0103)] 0x03 [] [] =
      true := by
  decide

/-- `ADD R1, #0x0000`: R1=0x0000, FLAGS=0x06; then FLAGS=0x01, PC=0x0104. -/
theorem test_addRL_1 :
    reaches (start [0x2A, 0x01, 0x00, 0x00] 0x06 [(1, 0x0000)] []) [(14, 0x0104)] 0x01 [] [] = true := by
  decide

/-- `ADD.B R1, R2`: R1=0x12F0, R2=0x3420, FLAGS=0x00; then R1=0x0010, FLAGS=0x02, PC=0x0103. -/
theorem test_addBRR_1 :
    reaches (start [0x2C, 0x01, 0x02] 0x00 [(1, 0x12F0), (2, 0x3420)] []) [(1, 0x0010), (14, 0x0103)] 0x02 [] [] =
      true := by
  decide

/-- `ADD.B R1, #0x01FF`: R1=0x0001, FLAGS=0x00; then R1=0x0000, FLAGS=0x03, PC=0x0104. -/
theorem test_addBRL_1 :
    reaches (start [0x2E, 0x01, 0x01, 0xFF] 0x00 [(1, 0x0001)] []) [(1, 0x0000), (14, 0x0104)] 0x03 [] [] = true := by
  decide

/-- `SUB R1, R1`: R1=0xABCD, FLAGS=0x06; then R1=0x0000, FLAGS=0x01, PC=0x0103. -/
theorem test_subRR_1 :
    reaches (start [0x30, 0x01, 0x01] 0x06 [(1, 0xABCD)] []) [(1, 0x0000), (14, 0x0103)] 0x01 [] [] = true := by
  decide

/-- `SUB R1, R2`: R1=0x0000, R2=0x0001, FLAGS=0x00; then R1=0xFFFF, FLAGS=0x06, PC=0x0103. -/
theorem test_subRR_2 :
    reaches (start [0x30, 0x01, 0x02] 0x00 [(1, 0x0000), (2, 0x0001)] []) [(1, 0xFFFF), (14, 0x0103)] 0x06 [] [] =
      true := by
  decide

/-- `SUB R1, #0x8000`: R1=0x7FFF, FLAGS=0x00; then R1=0xFFFF, FLAGS=0x06, PC=0x0104. -/
theorem test_subRL_1 :
    reaches (start [0x32, 0x01, 0x80, 0x00] 0x00 [(1, 0x7FFF)] []) [(1, 0xFFFF), (14, 0x0104)] 0x06 [] [] = true := by
  decide

/-- `SUB.B R1, R2`: R1=0x1210, R2=0x3420, FLAGS=0x00; then R1=0x00F0, FLAGS=0x06, PC=0x0103. -/
theorem test_subBRR_1 :
    reaches (start [0x34, 0x01, 0x02] 0x00 [(1, 0x1210), (2, 0x3420)] []) [(1, 0x00F0), (14, 0x0103)] 0x06 [] [] =
      true := by
  decide

/-- `SUB.B R1, #0x0001`: R1=0xFF00, FLAGS=0x00; then R1=0x00FF, FLAGS=0x06, PC=0x0104. -/
theorem test_subBRL_1 :
    reaches (start [0x36, 0x01, 0x00, 0x01] 0x00 [(1, 0xFF00)] []) [(1, 0x00FF), (14, 0x0104)] 0x06 [] [] = true := by
  decide

/-- `MUL R1, R1`: R1=0x00FF, FLAGS=0x00; then R1=0xFE01, FLAGS=0x04, PC=0x0103. -/
theorem test_mulRR_1 :
    reaches (start [0x38, 0x01, 0x01] 0x00 [(1, 0x00FF)] []) [(1, 0xFE01), (14, 0x0103)] 0x04 [] [] = true := by
  decide

/-- `MUL R1, R2`: R1=0x0003, R2=0x0004, FLAGS=0x06; then R1=0x000C, FLAGS=0x00, PC=0x0103. -/
theorem test_mulRR_2 :
    reaches (start [0x38, 0x01, 0x02] 0x06 [(1, 0x0003), (2, 0x0004)] []) [(1, 0x000C), (14, 0x0103)] 0x00 [] [] =
      true := by
  decide

/-- `MUL R1, #0x0000`: R1=0x1234, FLAGS=0x02; then R1=0x0000, FLAGS=0x01, PC=0x0104. -/
theorem test_mulRL_1 :
    reaches (start [0x3A, 0x01, 0x00, 0x00] 0x02 [(1, 0x1234)] []) [(1, 0x0000), (14, 0x0104)] 0x01 [] [] = true := by
  decide

/-- `MUL.B R1, R2`: R1=0x1210, R2=0x3410, FLAGS=0x00; then R1=0x0000, FLAGS=0x03, PC=0x0103. -/
theorem test_mulBRR_1 :
    reaches (start [0x3C, 0x01, 0x02] 0x00 [(1, 0x1210), (2, 0x3410)] []) [(1, 0x0000), (14, 0x0103)] 0x03 [] [] =
      true := by
  decide

/-- `MUL.B R1, #0x000F`: R1=0x0011, FLAGS=0x00; then R1=0x00FF, FLAGS=0x04, PC=0x0104. -/
theorem test_mulBRL_1 :
    reaches (start [0x3E, 0x01, 0x00, 0x0F] 0x00 [(1, 0x0011)] []) [(1, 0x00FF), (14, 0x0104)] 0x04 [] [] = true := by
  decide

/-- `DIV R1, R1`: R1=0x1234, FLAGS=0x00; then R1=0x0001, FLAGS=0x00, PC=0x0103. -/
theorem test_divRR_1 :
    reaches (start [0x40, 0x01, 0x01] 0x00 [(1, 0x1234)] []) [(1, 0x0001), (14, 0x0103)] 0x00 [] [] = true := by
  decide

/-- `DIV R1, R2`: R1=0x1234, R2=0x0000, FLAGS=0x05; then fault DivideByZero; state unchanged, PC=0x0100. -/
theorem test_divRR_2 :
    faults (start [0x40, 0x01, 0x02] 0x05 [(1, 0x1234), (2, 0x0000)] []) .divideByZero = true := by
  decide

/-- `DIV.B R1, R2`: R1=0x12C8, R2=0x340A, FLAGS=0x00; then R1=0x0014, FLAGS=0x00, PC=0x0103. -/
theorem test_divBRR_1 :
    reaches (start [0x44, 0x01, 0x02] 0x00 [(1, 0x12C8), (2, 0x340A)] []) [(1, 0x0014), (14, 0x0103)] 0x00 [] [] =
      true := by
  decide

/-- `DIV.B R1, #0xFF03`: R1=0x00FF, FLAGS=0x00; then R1=0x0055, FLAGS=0x00, PC=0x0104. -/
theorem test_divBRL_1 :
    reaches (start [0x46, 0x01, 0xFF, 0x03] 0x00 [(1, 0x00FF)] []) [(1, 0x0055), (14, 0x0104)] 0x00 [] [] = true := by
  decide

/-- `MOD R1, R2`: R1=0x0062, R2=0x0007, FLAGS=0x00; then R1=0x0000, FLAGS=0x01, PC=0x0103. -/
theorem test_modRR_1 :
    reaches (start [0x48, 0x01, 0x02] 0x00 [(1, 0x0062), (2, 0x0007)] []) [(1, 0x0000), (14, 0x0103)] 0x01 [] [] =
      true := by
  decide

/-- `MOD R1, R2`: R1=0xFFFF, R2=0x0000, FLAGS=0x00; then fault DivideByZero; state unchanged, PC=0x0100. -/
theorem test_modRR_2 :
    faults (start [0x48, 0x01, 0x02] 0x00 [(1, 0xFFFF), (2, 0x0000)] []) .divideByZero = true := by
  decide

/-- `MOD R1, #0x0001`: R1=0xFFFF, FLAGS=0x00; then R1=0x0000, FLAGS=0x01, PC=0x0104. -/
theorem test_modRL_1 :
    reaches (start [0x4A, 0x01, 0x00, 0x01] 0x00 [(1, 0xFFFF)] []) [(1, 0x0000), (14, 0x0104)] 0x01 [] [] = true := by
  decide

/-- `MOD.B R1, R2`: R1=0x12C8, R2=0x340B, FLAGS=0x00; then R1=0x0002, FLAGS=0x00, PC=0x0103. -/
theorem test_modBRR_1 :
    reaches (start [0x4C, 0x01, 0x02] 0x00 [(1, 0x12C8), (2, 0x340B)] []) [(1, 0x0002), (14, 0x0103)] 0x00 [] [] =
      true := by
  decide

/-- `INC SP`: SP=0x8FFE, FLAGS=0x00; then SP=0x8FFF, FLAGS=0x04, PC=0x0102. -/
theorem test_incR_1 :
    reaches (start [0x50, 0x0F] 0x00 [(15, 0x8FFE)] []) [(15, 0x8FFF), (14, 0x0102)] 0x04 [] [] = true := by
  decide

/-- `INC R1`: R1=0x0000, FLAGS=0x03; then R1=0x0001, FLAGS=0x00, PC=0x0102. -/
theorem test_incR_2 :
    reaches (start [0x50, 0x01] 0x03 [(1, 0x0000)] []) [(1, 0x0001), (14, 0x0102)] 0x00 [] [] = true := by
  decide

/-- `INC.B R1`: R1=0x12FF, FLAGS=0x00; then R1=0x0000, FLAGS=0x03, PC=0x0102. -/
theorem test_incBR_1 :
    reaches (start [0x54, 0x01] 0x00 [(1, 0x12FF)] []) [(1, 0x0000), (14, 0x0102)] 0x03 [] [] = true := by
  decide

/-- `DEC R1`: R1=0x0000, FLAGS=0x00; then R1=0xFFFF, FLAGS=0x06, PC=0x0102. -/
theorem test_decR_1 :
    reaches (start [0x58, 0x01] 0x00 [(1, 0x0000)] []) [(1, 0xFFFF), (14, 0x0102)] 0x06 [] [] = true := by
  decide

/-- `DEC R1`: R1=0x8000, FLAGS=0x02; then R1=0x7FFF, FLAGS=0x00, PC=0x0102. -/
theorem test_decR_2 :
    reaches (start [0x58, 0x01] 0x02 [(1, 0x8000)] []) [(1, 0x7FFF), (14, 0x0102)] 0x00 [] [] = true := by
  decide

/-- `DEC.B R1`: R1=0x1200, FLAGS=0x00; then R1=0x00FF, FLAGS=0x06, PC=0x0102. -/
theorem test_decBR_1 :
    reaches (start [0x5C, 0x01] 0x00 [(1, 0x1200)] []) [(1, 0x00FF), (14, 0x0102)] 0x06 [] [] = true := by
  decide

/-- `AND R1, R1`: R1=0x8000, FLAGS=0x01; then FLAGS=0x04, PC=0x0103. -/
theorem test_andRR_1 :
    reaches (start [0x60, 0x01, 0x01] 0x01 [(1, 0x8000)] []) [(14, 0x0103)] 0x04 [] [] = true := by
  decide

/-- `AND R1, #0x8000`: R1=0x8001, FLAGS=0x00; then R1=0x8000, FLAGS=0x04, PC=0x0104. -/
theorem test_andRL_1 :
    reaches (start [0x62, 0x01, 0x80, 0x00] 0x00 [(1, 0x8001)] []) [(1, 0x8000), (14, 0x0104)] 0x04 [] [] = true := by
  decide

/-- `AND.B R1, R2`: R1=0x12F0, R2=0x343C, FLAGS=0x00; then R1=0x0030, FLAGS=0x00, PC=0x0103. -/
theorem test_andBRR_1 :
    reaches (start [0x64, 0x01, 0x02] 0x00 [(1, 0x12F0), (2, 0x343C)] []) [(1, 0x0030), (14, 0x0103)] 0x00 [] [] =
      true := by
  decide

/-- `AND.B R1, #0xFF80`: R1=0xFFFF, FLAGS=0x00; then R1=0x0080, FLAGS=0x04, PC=0x0104. -/
theorem test_andBRL_1 :
    reaches (start [0x66, 0x01, 0xFF, 0x80] 0x00 [(1, 0xFFFF)] []) [(1, 0x0080), (14, 0x0104)] 0x04 [] [] = true := by
  decide

/-- `OR R1, R2`: R1=0xF000, R2=0x000F, FLAGS=0x00; then R1=0xF00F, FLAGS=0x04, PC=0x0103. -/
theorem test_orRR_1 :
    reaches (start [0x68, 0x01, 0x02] 0x00 [(1, 0xF000), (2, 0x000F)] []) [(1, 0xF00F), (14, 0x0103)] 0x04 [] [] =
      true := by
  decide

/-- `OR R1, #0x0100`: R1=0x0001, FLAGS=0x02; then R1=0x0101, FLAGS=0x02, PC=0x0104. -/
theorem test_orRL_1 :
    reaches (start [0x6A, 0x01, 0x01, 0x00] 0x02 [(1, 0x0001)] []) [(1, 0x0101), (14, 0x0104)] 0x02 [] [] = true := by
  decide

/-- `OR.B R1, R2`: R1=0x1201, R2=0x3480, FLAGS=0x00; then R1=0x0081, FLAGS=0x04, PC=0x0103. -/
theorem test_orBRR_1 :
    reaches (start [0x6C, 0x01, 0x02] 0x00 [(1, 0x1201), (2, 0x3480)] []) [(1, 0x0081), (14, 0x0103)] 0x04 [] [] =
      true := by
  decide

/-- `OR.B R1, #0xFF00`: R1=0xAB00, FLAGS=0x00; then R1=0x0000, FLAGS=0x01, PC=0x0104. -/
theorem test_orBRL_1 :
    reaches (start [0x6E, 0x01, 0xFF, 0x00] 0x00 [(1, 0xAB00)] []) [(1, 0x0000), (14, 0x0104)] 0x01 [] [] = true := by
  decide

/-- `SHL R1, R1`: R1=0x0003, FLAGS=0x00; then R1=0x0018, FLAGS=0x00, PC=0x0103. -/
theorem test_shlRR_1 :
    reaches (start [0x70, 0x01, 0x01] 0x00 [(1, 0x0003)] []) [(1, 0x0018), (14, 0x0103)] 0x00 [] [] = true := by
  decide

/-- `SHL R1, #0x0001`: R1=0x8001, FLAGS=0x00; then R1=0x0002, FLAGS=0x02, PC=0x0104. -/
theorem test_shlRL_1 :
    reaches (start [0x72, 0x01, 0x00, 0x01] 0x00 [(1, 0x8001)] []) [(1, 0x0002), (14, 0x0104)] 0x02 [] [] = true := by
  decide

/-- `SHR R1, R2`: R1=0xFF00, R2=0x0008, FLAGS=0x00; then R1=0x00FF, FLAGS=0x00, PC=0x0103. -/
theorem test_shrRR_1 :
    reaches (start [0x78, 0x01, 0x02] 0x00 [(1, 0xFF00), (2, 0x0008)] []) [(1, 0x00FF), (14, 0x0103)] 0x00 [] [] =
      true := by
  decide

/-- `SHR R1, #0x0001`: R1=0x8001, FLAGS=0x00; then R1=0x4000, FLAGS=0x02, PC=0x0104. -/
theorem test_shrRL_1 :
    reaches (start [0x7A, 0x01, 0x00, 0x01] 0x00 [(1, 0x8001)] []) [(1, 0x4000), (14, 0x0104)] 0x02 [] [] = true := by
  decide

/-- `NOT R1`: R1=0x0000, FLAGS=0x00; then R1=0xFFFF, FLAGS=0x04, PC=0x0102. -/
theorem test_notR_1 :
    reaches (start [0x80, 0x01] 0x00 [(1, 0x0000)] []) [(1, 0xFFFF), (14, 0x0102)] 0x04 [] [] = true := by
  decide

/-- `NOT.B R1`: R1=0x12FF, FLAGS=0x00; then R1=0x0000, FLAGS=0x01, PC=0x0102. -/
theorem test_notBR_1 :
    reaches (start [0x84, 0x01] 0x00 [(1, 0x12FF)] []) [(1, 0x0000), (14, 0x0102)] 0x01 [] [] = true := by
  decide

/-- `CMP R1, R1`: R1=0x1234, FLAGS=0x06; then FLAGS=0x01, PC=0x0103. -/
theorem test_cmpRR_1 :
    reaches (start [0x88, 0x01, 0x01] 0x06 [(1, 0x1234)] []) [(14, 0x0103)] 0x01 [] [] = true := by
  decide

/-- `CMP R1, R2`: R1=0x0005, R2=0x0006, FLAGS=0x00; then FLAGS=0x06, PC=0x0103. -/
theorem test_cmpRR_2 :
    reaches (start [0x88, 0x01, 0x02] 0x00 [(1, 0x0005), (2, 0x0006)] []) [(14, 0x0103)] 0x06 [] [] = true := by
  decide

/-- `CMP R1, #0xFFFF`: R1=0x0000, FLAGS=0x00; then FLAGS=0x02, PC=0x0104. -/
theorem test_cmpRL_1 :
    reaches (start [0x8A, 0x01, 0xFF, 0xFF] 0x00 [(1, 0x0000)] []) [(14, 0x0104)] 0x02 [] [] = true := by
  decide

/-- `CMP.B R1, R2`: R1=0x1234, R2=0x5634, FLAGS=0x00; then FLAGS=0x01, PC=0x0103. -/
theorem test_cmpBRR_1 :
    reaches (start [0x8C, 0x01, 0x02] 0x00 [(1, 0x1234), (2, 0x5634)] []) [(14, 0x0103)] 0x01 [] [] = true := by
  decide

/-- `CMP.B R1, #0x0080`: R1=0x007F, FLAGS=0x00; then FLAGS=0x06, PC=0x0104. -/
theorem test_cmpBRL_1 :
    reaches (start [0x8E, 0x01, 0x00, 0x80] 0x00 [(1, 0x007F)] []) [(14, 0x0104)] 0x06 [] [] = true := by
  decide

/-- `JMP PC`: FLAGS=0x00; then FLAGS=0x00, PC=0x0102. -/
theorem test_jmpR_1 :
    reaches (start [0x90, 0x0E] 0x00 [] []) [(14, 0x0102)] 0x00 [] [] = true := by
  decide

/-- `JMP #0x1234`: FLAGS=0x00; then FLAGS=0x00, PC=0x1234. -/
theorem test_jmpL_1 :
    reaches (start [0x92, 0x12, 0x34] 0x00 [] []) [(14, 0x1234)] 0x00 [] [] = true := by
  decide

/-- `JZ R3`: R3=0x8000, FLAGS=0x01; then FLAGS=0x01, PC=0x8000. -/
theorem test_jzR_1 :
    reaches (start [0x98, 0x03] 0x01 [(3, 0x8000)] []) [(14, 0x8000)] 0x01 [] [] = true := by
  decide

/-- `JZ #0x1234`: FLAGS=0x01; then FLAGS=0x01, PC=0x1234. -/
theorem test_jzL_1 :
    reaches (start [0x9A, 0x12, 0x34] 0x01 [] []) [(14, 0x1234)] 0x01 [] [] = true := by
  decide

/-- `JNZ R3`: R3=0x8000, FLAGS=0x06; then FLAGS=0x06, PC=0x8000. -/
theorem test_jnzR_1 :
    reaches (start [0xA0, 0x03] 0x06 [(3, 0x8000)] []) [(14, 0x8000)] 0x06 [] [] = true := by
  decide

/-- `JNZ #0x1234`: FLAGS=0x01; then FLAGS=0x01, PC=0x0103. -/
theorem test_jnzL_1 :
    reaches (start [0xA2, 0x12, 0x34] 0x01 [] []) [(14, 0x0103)] 0x01 [] [] = true := by
  decide

/-- `JN R3`: R3=0x8000, FLAGS=0x04; then FLAGS=0x04, PC=0x8000. -/
theorem test_jnR_1 :
    reaches (start [0xA8, 0x03] 0x04 [(3, 0x8000)] []) [(14, 0x8000)] 0x04 [] [] = true := by
  decide

/-- `JN #0x1234`: FLAGS=0x04; then FLAGS=0x04, PC=0x1234. -/
theorem test_jnL_1 :
    reaches (start [0xAA, 0x12, 0x34] 0x04 [] []) [(14, 0x1234)] 0x04 [] [] = true := by
  decide

/-- `JNN R3`: R3=0x8000, FLAGS=0x03; then FLAGS=0x03, PC=0x8000. -/
theorem test_jnnR_1 :
    reaches (start [0xB0, 0x03] 0x03 [(3, 0x8000)] []) [(14, 0x8000)] 0x03 [] [] = true := by
  decide

/-- `JNN #0x1234`: FLAGS=0x04; then FLAGS=0x04, PC=0x0103. -/
theorem test_jnnL_1 :
    reaches (start [0xB2, 0x12, 0x34] 0x04 [] []) [(14, 0x0103)] 0x04 [] [] = true := by
  decide

/-- `JC R3`: R3=0x8000, FLAGS=0x02; then FLAGS=0x02, PC=0x8000. -/
theorem test_jcR_1 :
    reaches (start [0xB8, 0x03] 0x02 [(3, 0x8000)] []) [(14, 0x8000)] 0x02 [] [] = true := by
  decide

/-- `JC #0x1234`: FLAGS=0x02; then FLAGS=0x02, PC=0x1234. -/
theorem test_jcL_1 :
    reaches (start [0xBA, 0x12, 0x34] 0x02 [] []) [(14, 0x1234)] 0x02 [] [] = true := by
  decide

/-- `JNC R3`: R3=0x8000, FLAGS=0x05; then FLAGS=0x05, PC=0x8000. -/
theorem test_jncR_1 :
    reaches (start [0xC0, 0x03] 0x05 [(3, 0x8000)] []) [(14, 0x8000)] 0x05 [] [] = true := by
  decide

/-- `JNC #0x1234`: FLAGS=0x02; then FLAGS=0x02, PC=0x0103. -/
theorem test_jncL_1 :
    reaches (start [0xC2, 0x12, 0x34] 0x02 [] []) [(14, 0x0103)] 0x02 [] [] = true := by
  decide

/-- `JSB #0x0200`: SP=0x9000, FLAGS=0x07; then SP=0x8FFE, FLAGS=0x07, PC=0x0200, [0x8FFE..]=01 03. -/
theorem test_jsbL_1 :
    reaches (start [0xCA, 0x02, 0x00] 0x07 [(15, 0x9000)] []) [(15, 0x8FFE), (14, 0x0200)] 0x07 [(0x8FFE, [0x01,
      0x03])] [] = true := by
  decide

/-- `JSB #0x0200`: SP=0x8001, FLAGS=0x00; then fault RomWrite; state unchanged, PC=0x0100. -/
theorem test_jsbL_2 :
    faults (start [0xCA, 0x02, 0x00] 0x00 [(15, 0x8001)] []) .romWrite = true := by
  decide

/-- `RSB`: SP=0x8FFE, FLAGS=0x07, [0x8FFE..]=01 03; then SP=0x9000, FLAGS=0x07, PC=0x0103. -/
theorem test_rsb_1 :
    reaches (start [0xD0] 0x07 [(15, 0x8FFE)] [(0x8FFE, [0x01, 0x03])]) [(15, 0x9000), (14, 0x0103)] 0x07 [] [] =
      true := by
  decide

/-- `CLI`: FLAGS=0x0F; then FLAGS=0x07, PC=0x0101. -/
theorem test_cli_1 :
    reaches (start [0xD8] 0x0F [] []) [(14, 0x0101)] 0x07 [] [] = true := by
  decide

/-- `SEI`: FLAGS=0x00; then FLAGS=0x08, PC=0x0101. -/
theorem test_sei_1 :
    reaches (start [0xE0] 0x00 [] []) [(14, 0x0101)] 0x08 [] [] = true := by
  decide

/-- `RSI`: SP=0x8FFC, FLAGS=0x18, [0x8FFC..]=00 05 01 00; then SP=0x9000, FLAGS=0x15, PC=0x0100. -/
theorem test_rsi_1 :
    reaches (start [0xE8] 0x18 [(15, 0x8FFC)] [(0x8FFC, [0x00, 0x05, 0x01, 0x00])]) [(15, 0x9000), (14, 0x0100)]
      0x15 [] [] = true := by
  decide

/-- `RSI`: SP=0x8FFC, FLAGS=0x08, [0x8FFC..]=FF F7 12 34; then SP=0x9000, FLAGS=0x07, PC=0x1234. -/
theorem test_rsi_2 :
    reaches (start [0xE8] 0x08 [(15, 0x8FFC)] [(0x8FFC, [0xFF, 0xF7, 0x12, 0x34])]) [(15, 0x9000), (14, 0x1234)]
      0x07 [] [] = true := by
  decide

/-! ## Interrupt entry (95_test_vectors.md section 2.8); the PC is at `IRQ_VECTOR`, whatever it is -/

theorem test_interrupt_1 :
    reaches (start [0x00] 0x15 [(15, 0x9000)] []) [(15, 0x8FFC)] 0x0D [(0x8FFC, [0x00, 0x05, 0x01, 0x00])] [] = true := by
  decide

theorem test_interrupt_2 :
    reaches (start [0x00] 0x1D [(15, 0x9000)] []) [(14, 0x0101)] 0x1D [] [] = true := by
  decide

theorem test_interrupt_3 :
    faults (start [0x00] 0x10 [(15, 0x8003)] []) .romWrite = true := by
  decide

/-- An instruction placed by `withFetchWord` is the first a reset machine runs. -/
theorem test_withFetchWord :
    reaches (State.reset.withFetchWord 32 0x12051234) [(5, 0x1234), (Reg.pc, 4)] 0x00 [] [] = true := by
  decide

/-! ## The hypotheses of the statements can be met: for each statement, each clause, at boundary values -/

/-- A state after reset with registers and FLAGS as given. -/
def Tests.idle (flags : Byte) (regs : List (Reg × Word)) : State := { setRegs regs State.reset with flags := flags }

theorem test_witness_MovStoresWord :
    ([0x8000#16, 0xEFFF#16, 0xFFFE#16].all fun v => decide (
      ¬IsRom ((idle 0 [(1, v)]).reg 1) ∧ ¬IsRom ((idle 0 [(1, v)]).reg 1 + 1#16))) = true := by
  decide

theorem test_witness_MovStoresByte :
    ([0x8000#16, 0xFFFF#16].all fun v => decide (
      ¬IsRom ((idle 0 [(1, v)]).reg 1))) = true := by
  decide

theorem test_witness_StoreToRomFaults_word :
    ([0x0000#16, 0x7FFF#16, 0xFFFF#16].all fun v => decide (
      IsRom ((idle 0 [(1, v)]).reg 1) ∨ IsRom ((idle 0 [(1, v)]).reg 1 + 1#16))) = true := by
  decide

theorem test_witness_StoreToRomFaults_byte :
    ([0x0000#16, 0x7FFF#16].all fun v => decide (
      IsRom ((idle 0 [(1, v)]).reg 1))) = true := by
  decide

/-- For `PhrPushesRegister` and `JsbPushesAndJumps`. -/
theorem test_witness_PhrPushesRegister :
    ([0x8002#16, 0xF001#16, 0x0000#16].all fun v => decide (
      ¬IsRom ((idle 0 [(Reg.sp, v)]).reg Reg.sp - 2#16) ∧ ¬IsRom ((idle 0 [(Reg.sp, v)]).reg Reg.sp - 1#16))) = true := by
  decide

theorem test_witness_PushIntoRomFaults :
    ([0x8001#16, 0x0002#16, 0x0001#16].all fun v => decide (
      IsRom ((idle 0 [(Reg.sp, v)]).reg Reg.sp - 2#16) ∨ IsRom ((idle 0 [(Reg.sp, v)]).reg Reg.sp - 1#16))) = true := by
  decide

theorem test_witness_PlrPullsRegister : (1 : Reg) ≠ Reg.sp := by decide

/-- For `DivComputes` and `ModComputes`, each of the four clauses. -/
theorem test_witness_DivComputes :
    ((idle 0 [(2, 1)]).reg 2).toNat ≠ 0 ∧ (1#16).toNat ≠ 0 ∧ ((idle 0 [(2, 0x0101)]).reg 2).toNat % 256 ≠ 0 ∧
    (0xFF01#16).toNat % 256 ≠ 0 := by
  decide

/-- The word clauses and the byte clauses. -/
theorem test_witness_DivisionByZeroFaults :
    ((idle 0 []).reg 2).toNat = 0 ∧ (0#16).toNat = 0 ∧ ((idle 0 [(2, 0xFF00)]).reg 2).toNat % 256 = 0 ∧
    (0x0100#16).toNat % 256 = 0 := by
  decide

theorem test_witness_StepRunsDecodedInstruction :
    ([0x00#8, 0x08#8, 0x18#8].all fun flags => decide (
      let b := environmentMoves (start [0x10, 0x01, 0x02] flags [] [])
      b.flag .h = false ∧ (b.flag .ip = false ∨ b.flag .id = true) ∧
      decode (readBytes 3 (b.reg Reg.pc) b).1 = .ok (.movRR 1 2, []) ∧ (Instr.movRR 1 2).WellFormed)) = true := by
  decide

theorem test_witness_IllegalBytesFault :
    ([([0xF0#8], DecodeError.unassignedOpcode), ([0x01#8], .unlistedForm),
        ([0x10#8, 0x01#8, 0x10#8], .noSuchRegister)].all fun p => decide (
      let b := environmentMoves (start p.1 0x00 [] [])
      b.flag .h = false ∧ (b.flag .ip = false ∨ b.flag .id = true) ∧
      decode (readBytes p.1.length (b.reg Reg.pc) b).1 = .error p.2 ∧ p.2 ≠ .tooShort)) = true := by
  decide

/-- Its second clause; the first has no hypothesis. -/
theorem test_witness_FetchReadsBytesInOrder :
    ([0x7FFF#16, 0xEFFE#16].all fun a => decide (
      ∀ k, k < 2 → ¬IsDevice (a + BitVec.ofNat 16 k))) = true := by
  decide

theorem test_witness_HaltedMachineOnlyHearsRequests : (idle 0x80 []).flag .h = true := by decide

theorem test_witness_InterruptEntrySavesPcAndFlags :
    ([0x8004#16, 0xF001#16].all fun v => decide (
      let b := environmentMoves { idle 0x07 [(Reg.sp, v)] with requests := [true] }
      let sp := b.reg Reg.sp
      b.flag .h = false ∧ b.flag .ip = true ∧ b.flag .id = false ∧ b.flags.getLsbD 5 = false ∧
      b.flags.getLsbD 6 = false ∧ ¬IsRom (sp - 1#16) ∧ ¬IsRom (sp - 2#16) ∧ ¬IsRom (sp - 3#16) ∧
      ¬IsRom (sp - 4#16))) = true := by
  decide

theorem test_witness_InterruptEntryIntoRomFaults :
    ([0x8003#16, 0x0003#16, 0x0001#16].all fun v => decide (
      let b := environmentMoves (idle 0x10 [(Reg.sp, v)])
      let sp := b.reg Reg.sp
      b.flag .h = false ∧ b.flag .ip = true ∧ b.flag .id = false ∧
      (IsRom (sp - 1#16) ∨ IsRom (sp - 2#16) ∨ IsRom (sp - 3#16) ∨ IsRom (sp - 4#16)))) = true := by
  decide

theorem test_witness_DecodeInvertsEncode :
    (Instr.movBIndRL 15 0xFFFF).WellFormed ∧ (Instr.cmpRR 0 15).WellFormed := by
  decide

theorem test_witness_EncodeInvertsDecode :
    decode [0x2E, 0x01, 0xAA, 0x03, 0xFF] = .ok (.addBRL 1 0xAA03, [0xFF]) := by
  decide

/-- For `StepKeepsInvariant` and `DevicesKeepTheirHistory`: a byte is sent to a device. -/
theorem test_witness_StepKeepsInvariant :
    Inv (start [0x17, 0x01, 0x00, 0x41] 0x00 [(1, 0xFFFF)] []) ∧
    Completes (step (start [0x17, 0x01, 0x00, 0x41] 0x00 [(1, 0xFFFF)] [])) fun _ => True :=
  ⟨⟨rfl, rfl, rfl⟩, _, rfl, trivial⟩

theorem test_witness_RomNeverChanges :
    IsRom 0x7FFF#16 ∧ Completes (step (start [0x11, 0x01, 0x02] 0x00 [(1, 0x8000)] [])) fun _ => True :=
  ⟨by decide, _, rfl, trivial⟩

/-- Each clause: H, ID, Z or N, and C change. -/
theorem test_witness_FlagsHaveOnlyTheirWriters :
    Completes (exec .hlt (idle 0x00 [])) (fun t => t.flag .h ≠ (idle 0x00 []).flag .h) ∧
    Completes (exec .cli (idle 0x08 [])) (fun t => t.flag .id ≠ (idle 0x08 []).flag .id) ∧
    Completes (exec (.addRL 1 1) (idle 0x00 [(1, 0xFFFF)])) (fun t =>
      t.flag .z ≠ (idle 0x00 [(1, 0xFFFF)]).flag .z ∧ t.flag .c ≠ (idle 0x00 [(1, 0xFFFF)]).flag .c) :=
  ⟨⟨_, rfl, by decide⟩, ⟨_, rfl, by decide⟩, _, rfl, by decide⟩

/-- A word and a byte divisor of 0, a store of a word with its second byte in ROM and of a byte, a push. -/
theorem test_witness_FaultsHaveTheirCauses :
    (Instr.divRL 15 0).WellFormed ∧ exec (.divRL 15 0) (idle 0 []) = .fault .divideByZero ∧
    (Instr.modBRR 1 2).WellFormed ∧ exec (.modBRR 1 2) (idle 0 [(2, 0x0100)]) = .fault .divideByZero ∧
    (Instr.movIndRR 1 0).WellFormed ∧ exec (.movIndRR 1 0) (idle 0 [(1, 0xFFFF)]) = .fault .romWrite ∧
    (Instr.movBIndRR 1 0).WellFormed ∧ exec (.movBIndRR 1 0) (idle 0 [(1, 0x7FFF)]) = .fault .romWrite ∧
    (Instr.phrR 15).WellFormed ∧ exec (.phrR 15) (idle 0 [(Reg.sp, 0x8001)]) = .fault .romWrite :=
  ⟨by decide, rfl, by decide, rfl, by decide, rfl, by decide, rfl, by decide, rfl⟩

theorem test_witness_AddThenSubRestores :
    (13 : Reg) ≠ 15 ∧ (13 : Reg) ≠ Reg.pc ∧ (15 : Reg) ≠ Reg.pc := by
  decide

theorem test_witness_DivAndModRecoverDividend : ((idle 0 [(2, 1)]).reg 2).toNat ≠ 0 := by decide

theorem test_witness_ShlAgreesWithMulByPower : (0 < 1 ∧ 1 < 16) ∧ 0 < 15 ∧ 15 < 16 := by decide

/-- For `PhrThenPlrCopies` and `RsbReturnsFromJsb`. -/
theorem test_witness_PhrThenPlrCopies :
    (1 : Reg) ≠ Reg.sp ∧ Reg.pc ≠ Reg.sp ∧
    ([0x8002#16, 0xF000#16].all fun v => decide (
      IsRam ((idle 0 [(Reg.sp, v)]).reg Reg.sp - 2#16) ∧ IsRam ((idle 0 [(Reg.sp, v)]).reg Reg.sp - 1#16))) = true := by
  decide

theorem test_witness_RsiUndoesInterruptEntry :
    ([0x8004#16, 0xF000#16].all fun v => decide (
      let s := idle 0x10 [(Reg.sp, v)]
      s.flag .id = false ∧ IsRam (s.reg Reg.sp - 1#16) ∧ IsRam (s.reg Reg.sp - 2#16) ∧
      IsRam (s.reg Reg.sp - 3#16) ∧ IsRam (s.reg Reg.sp - 4#16))) = true := by
  decide

end Sys2Proof.Machine
end

section
/-! The state: FLAGS and the flags in it (10_state.md). -/

namespace Sys2Proof.Machine

/-- Writing a flag leaves every bit of FLAGS that is not its own (00_scope.md R8, `Z <- b`). -/
theorem keepsFlags_setFlag (s : State) (f : Flag) (v : Bool) : KeepsFlags s (s.setFlag f v) [f] := by
  intro k _ others
  have bit_ne : k ≠ f.pos := (others f (List.mem_singleton_self f)).symm
  rw [getLsbD_setFlag, if_neg bit_ne]

/-- Settles O45: the places are those of `Flag.pos`; a flag written reads back, and the write's frame is
`keepsFlags_setFlag`. -/
theorem flagsStandAtTheirBits : Obligations.FlagsStandAtTheirBits := by
  intro s
  refine ⟨⟨?z, ?c, ?n, ?id, ?ip, ?h⟩, fun f v => ⟨flag_setFlag_self s f v, keepsFlags_setFlag s f v⟩⟩
  all_goals rfl

end Sys2Proof.Machine
end

section
/-! The memory: the region of every address (20_memory.md section 1). -/

namespace Sys2Proof.Machine

/-! ## The bits R31 tests, as bounds -/

/-- Bit 15 of an address parts the ROM from the upper half. -/
theorem getLsbD_fifteen_eq_false_iff (a : Word) : a.getLsbD 15 = false ↔ IsRom a := by
  rw [← BitVec.msb_eq_getLsbD_last a, BitVec.msb_eq_false_iff_two_mul_lt]
  omega

/-- Bits 15 to 12 of an address are its quotient by 0x1000, which is 0xF from 0xF000 on. -/
theorem extractLsb'_twelve_four_eq_iff (a : Word) : a.extractLsb' 12 4 = 0xF#4 ↔ IsDevice a := by
  have in_range := a.isLt
  rw [← BitVec.toNat_inj, BitVec.extractLsb'_toNat, Nat.shiftRight_eq_div_pow, BitVec.toNat_ofNat]
  omega

/-! ## The region of an address, by its bounds -/

/-- The tests of `regionOf`, in their order, as bounds. -/
theorem regionOf_eq_ite (a : Word) :
    regionOf a = if IsRom a then .rom else if IsDevice a then .devices else .ram := by
  simp only [regionOf, getLsbD_fifteen_eq_false_iff, extractLsb'_twelve_four_eq_iff]

/-- ROM is the first test. -/
theorem regionOf_eq_rom_iff (a : Word) : regionOf a = .rom ↔ IsRom a := by
  rw [regionOf_eq_ite]
  split_ifs with rom <;> simp [rom]

/-- Devices are the second test, which no address of the ROM would pass. -/
theorem regionOf_eq_devices_iff (a : Word) : regionOf a = .devices ↔ IsDevice a := by
  rw [regionOf_eq_ite]
  split_ifs with rom device
  · have not_device : ¬IsDevice a := by omega
    simp [not_device]
  · simp [device]
  · simp [device]

/-- RAM is what is neither ROM nor devices: R31's "otherwise". -/
theorem regionOf_eq_ram_iff_not (a : Word) : regionOf a = .ram ↔ ¬IsRom a ∧ ¬IsDevice a := by
  rw [← regionOf_eq_rom_iff, ← regionOf_eq_devices_iff]
  cases regionOf a <;> simp

/-- The addresses between the ROM and the devices are the RAM. -/
theorem regionOf_eq_ram_iff (a : Word) : regionOf a = .ram ↔ IsRam a := by
  rw [regionOf_eq_ram_iff_not]
  omega

/-- Settles O44: each clause by bounds is the region's own law; the clauses by bits follow from them by what the bits
say of the address. -/
theorem regionsOfTheAddressSpace : Obligations.RegionsOfTheAddressSpace := by
  refine ⟨fun a => ⟨regionOf_eq_rom_iff a, regionOf_eq_ram_iff a, ?devicesByBounds, ?romByBits, ?devicesByBits,
    ?ramByBits⟩, ?sizes⟩
  case devicesByBounds =>
    have top : a.toNat ≤ 0xFFFF := Nat.le_of_lt_succ a.isLt
    rw [regionOf_eq_devices_iff, and_iff_left top]
  case romByBits => rw [regionOf_eq_rom_iff, getLsbD_fifteen_eq_false_iff]
  case devicesByBits => rw [regionOf_eq_devices_iff, extractLsb'_twelve_four_eq_iff]
  case ramByBits => rw [regionOf_eq_ram_iff_not, getLsbD_fifteen_eq_false_iff, extractLsb'_twelve_four_eq_iff]
  case sizes => decide

end Sys2Proof.Machine
end

section
/-! The encoding: the place and the size of every argument (30_encoding.md section 1). -/

namespace Sys2Proof

/-- A literal takes two bytes (30_encoding.md R56). -/
@[simp] theorem length_litBytes (k : Word) : (litBytes k).length = 2 := rfl

/-- The bytes of an instruction with first byte `b0`, by the five formats of its arguments (30_encoding.md R54). -/
def Args.Follow (b0 : Byte) (bytes : List Byte) : Args → Prop
  | .none => bytes = [b0]
  | .reg r1 => bytes = [b0, r1]
  | .regReg r1 r2 => bytes = [b0, r1, r2]
  | .lit k => bytes = b0 :: litBytes k ∧ (litBytes k).length = 2
  | .regLit r1 k => bytes = b0 :: r1 :: litBytes k ∧ (litBytes k).length = 2

/-- The argument bytes, put after a first byte, are laid out as their format says. -/
theorem Args.follow_bytes (b0 : Byte) (a : Args) : a.Follow b0 (b0 :: a.bytes) := by
  cases a with
  | none | reg r1 | regReg r1 r2 => exact rfl
  | lit k | regLit r1 k => exact ⟨rfl, length_litBytes k⟩

/-- The encoder puts an instruction's arguments after its first byte. -/
theorem args_follow_firstByte (i : Instr) : i.args.Follow i.row.firstByte (encode i) :=
  i.args.follow_bytes i.row.firstByte

end Sys2Proof

namespace Sys2Proof.Machine

/-- Settles O43: the first byte is that of the instruction's row, and its arguments follow it in their format; the
constructor says which of the five formats that is. -/
theorem encodingSizes : Obligations.EncodingSizes := by
  intro i
  refine ⟨i.row.firstByte, ?_⟩
  have layout := args_follow_firstByte i
  cases i <;> exact layout

/-- Settles O60: an encoding is as long as the instruction's form; the constructor says which arguments and which
length the form has. -/
theorem instructionSizes : Obligations.InstructionSizes := by
  intro i
  have bits_eq : 8 * (encode i).length = 8 * i.form.len := by rw [form_len_eq_length]
  cases i <;> exact ⟨rfl, bits_eq⟩

end Sys2Proof.Machine
end

section
/-! The encoding: decoding and encoding undo each other (30_encoding.md sections 1, 2 and 4). -/

namespace Sys2Proof

/-! ## Forms and the arguments they take -/

/-- The instruction a form makes of arguments, none where they are not in its format (30_encoding.md R54). -/
def Form.apply : Form → Args → Option Instr
  | .n i, .none => some i
  | .r mk, .reg r1 => some (mk r1)
  | .rr mk, .regReg r1 r2 => some (mk r1 r2)
  | .l mk, .lit k => some (mk k)
  | .rl mk, .regLit r1 k => some (mk r1 k)
  | _, _ => none

/-- An instruction is what its form makes of its arguments. -/
theorem form_apply_args (i : Instr) : i.form.apply i.args = some i := by
  cases i <;> rfl

/-- Whatever an instruction's form makes, it makes in the same row and of the arguments given. -/
theorem row_and_args_of_form_apply {i j : Instr} {a : Args} (h : i.form.apply a = some j) :
    j.row = i.row ∧ j.args = a := by
  cases i <;> cases a <;> cases h <;> exact ⟨rfl, rfl⟩

/-- Some instruction of a form: the one whose operands are 0. -/
def Form.sample : Form → Instr
  | .n i => i
  | .r mk => mk 0
  | .rr mk => mk 0 0
  | .l mk => mk 0
  | .rl mk => mk 0 0

/-- The form table read backwards: a form stands at the opcode and the B, L, I of its instructions' row (R59). -/
theorem legalForm_eq_some {op bli : Nat} {f : Form} (h : legalForm op bli = some f) :
    f.sample.form = f ∧ f.sample.row.op = op ∧
      f.sample.row.b * 4 + f.sample.row.l * 2 + f.sample.row.i = bli := by
  unfold legalForm at h
  split at h <;> (try split at h) <;> cases h <;> exact ⟨rfl, rfl, rfl⟩

/-- A first byte is its two fields (30_encoding.md R52). -/
theorem firstByte_eq_of_fields {w : Row} {b0 : Byte} (op_eq : w.op = opcodeOf b0)
    (bli_eq : w.b * 4 + w.l * 2 + w.i = flagBitsOf b0) : w.firstByte = b0 := by
  refine BitVec.eq_of_toNat_eq ?_
  simp only [opcodeOf, flagBitsOf] at op_eq bli_eq
  simp only [Row.firstByte, BitVec.toNat_ofNat]
  omega

/-- A first byte that begins a form is the first byte of that form's instructions. -/
theorem formOf_eq_ok {b0 : Byte} {f : Form} (h : formOf b0 = .ok f) :
    ∃ i : Instr, i.form = f ∧ i.row.firstByte = b0 := by
  unfold formOf at h
  split at h
  next g legal =>
    cases h
    obtain ⟨form_eq, op_eq, bli_eq⟩ := legalForm_eq_some legal
    exact ⟨f.sample, form_eq, firstByte_eq_of_fields op_eq bli_eq⟩
  next => split at h <;> cases h

/-! ## The bytes of the arguments -/

/-- Joining two bytes and taking the word apart again gives the two bytes. -/
@[simp] theorem litBytes_litOfBytes (hi lo : Byte) : litBytes (litOfBytes hi lo) = [hi, lo] := by
  have high : (hi ++ lo).extractLsb' 8 8 = hi := BitVec.extractLsb'_append_eq_left
  have low : (hi ++ lo).extractLsb' 0 8 = lo := BitVec.extractLsb'_append_eq_right
  simp only [litBytes, litOfBytes, high, low]

/-- Well-formed arguments are read back from their bytes by the form that takes them. -/
theorem decodeArgs_bytes {f : Form} {a : Args} {i : Instr} (made : f.apply a = some i)
    (legal : a.wellFormed = true) (rest : List Byte) : decodeArgs f (a.bytes ++ rest) = .ok (i, rest) := by
  cases f <;> cases a <;> cases made <;>
    simp_all [decodeArgs, Args.bytes, Args.wellFormed, litBytes]

/-- What the argument decoder reads is the bytes of well-formed arguments that the form takes. -/
theorem decodeArgs_eq_ok {f : Form} {bs rest : List Byte} {i : Instr} (h : decodeArgs f bs = .ok (i, rest)) :
    ∃ a : Args, f.apply a = some i ∧ a.wellFormed = true ∧ bs = a.bytes ++ rest := by
  unfold decodeArgs at h
  split at h
  next => cases h; exact ⟨.none, rfl, rfl, rfl⟩
  next mk x tail =>
    split at h <;> cases h
    exact ⟨.reg x, rfl, by simpa [Args.wellFormed], rfl⟩
  next mk x y tail =>
    split at h <;> cases h
    exact ⟨.regReg x y, rfl, by simpa [Args.wellFormed], rfl⟩
  next mk hi lo tail =>
    cases h
    exact ⟨.lit (litOfBytes hi lo), rfl, rfl, by simp [Args.bytes]⟩
  next mk x hi lo tail =>
    split at h <;> cases h
    exact ⟨.regLit x (litOfBytes hi lo), rfl, by simpa [Args.wellFormed], by simp [Args.bytes]⟩
  next => cases h

/-! ## The round trips -/

/-- What decodes begins with a byte that begins a form, and the rest decodes as that form's arguments. -/
theorem decode_eq_ok {bs rest : List Byte} {i : Instr} (h : decode bs = .ok (i, rest)) :
    ∃ b0 tail f, bs = b0 :: tail ∧ formOf b0 = .ok f ∧ decodeArgs f tail = .ok (i, rest) := by
  cases bs with
  | nil => cases h
  | cons b0 tail =>
    simp only [decode] at h
    split at h
    next => cases h
    next f hf => exact ⟨b0, tail, f, rfl, hf, h⟩

/-- Settles O39: the first byte gives back the instruction's form, and the form reads back the arguments. -/
theorem decodeInvertsEncode : Obligations.DecodeInvertsEncode := by
  intro i rest legal
  rw [decode_encode_eq_decodeArgs]
  exact decodeArgs_bytes (form_apply_args i) legal rest

/-- Settles O40: the first byte and the argument bytes each determine their part of the instruction. -/
theorem encodeInvertsDecode : Obligations.EncodeInvertsDecode := by
  intro bs i rest h
  obtain ⟨b0, tail, f, rfl, begins, args_decode⟩ := decode_eq_ok h
  obtain ⟨j, rfl, rfl⟩ := formOf_eq_ok begins
  obtain ⟨a, made, legal, rfl⟩ := decodeArgs_eq_ok args_decode
  obtain ⟨row_eq, rfl⟩ := row_and_args_of_form_apply made
  exact ⟨legal, by rw [encode, row_eq, List.cons_append]⟩

/-! ## Closed facts about the form table -/

/-- Settles O41: the form table is looked up at each of the 256 first bytes. -/
theorem legalFirstBytesNumber73 : Obligations.LegalFirstBytesNumber73 :=
  ⟨rfl, rfl, rfl⟩

/-- Settles O42: the decoder runs on each of the nine words. -/
theorem decodesWordsOfTheSpec : Obligations.DecodesWordsOfTheSpec :=
  ⟨rfl, rfl, rfl, rfl, rfl, rfl, rfl, rfl, rfl⟩

end Sys2Proof
end

section
/-! The register and flag instructions: what each writes, and that it changes nothing else (41_data_transfer.md section 1,
42_arithmetic.md, 43_logic.md, 44_comparison.md, 45_control_flow.md section 1, 40_control.md, 46_interrupt_handle.md). -/

namespace Sys2Proof.Machine

/-! ## Frames -/

theorem keepsRegs_self (s : State) (written : List Reg) : KeepsRegs s s written := fun _ _ => rfl

theorem keepsFlags_of_eq {s t : State} (h : t.flags = s.flags) (written : List Flag) : KeepsFlags s t written :=
  fun _ _ _ => by rw [h]

theorem keepsMemory_of_eq {s t : State} (h : t.mem = s.mem) : KeepsMemory s t :=
  fun _ => by rw [State.stored, State.stored, h]

theorem keepsOutside_self (s : State) : KeepsOutside s s := ⟨rfl, rfl⟩

/-- A register written leaves every other register as it was. -/
theorem keepsRegs_setReg (s : State) (d : Reg) (v : Word) : KeepsRegs s (s.setReg d v) [d] :=
  fun _ other => reg_setReg_of_ne s v (List.ne_of_not_mem_cons other)

/-- The flags of an operation are Z, N and C. -/
theorem keepsFlags_setFlags (w : Width) (o : Alu) (s : State) : KeepsFlags s (setFlags w o s) [.z, .n, .c] := by
  intro k _ others
  have not_z : k ≠ 0 := (others .z (by simp)).symm
  have not_n : k ≠ 2 := (others .n (by simp)).symm
  have not_c : k ≠ 1 := (others .c (by simp)).symm
  simp [getLsbD_setFlags, not_z, not_n, not_c]

/-! ## Operands -/

/-- ARG 2 is legal and `v` are its 16 bits: a register's value, or the literal (30_encoding.md R57). -/
inductive Source.Reads (s : State) : Source → Word → Prop
  | reg (r : Reg) : Source.Reads s (.reg r.field) (s.reg r)
  | lit (v : Word) : Source.Reads s (.lit v) v

/-- A meaning behind a legal ARG 2 is the meaning at its value. -/
theorem Source.Reads.withSource_eq {s : State} {x : Source} {v : Word} (h : x.Reads s v)
    (k : Word → Host.Outcome State Fault Refusal) : withSource x s k = k v := by
  cases h with
  | reg r => exact withSource_field r s k
  | lit v => rfl

section
variable {s : State} {x : Source} {v : Word} (w : Width) (d : Reg)

theorem binary_of_reads (f : Nat → Nat → Alu) (h : x.Reads s v) :
    binary w f d.field x s = .next (commit w d (f (narrow w (s.reg d)) (narrow w v)) s) := by
  rw [binary, withReg_field, h.withSource_eq]

theorem dividing_of_reads (f : Nat → Nat → Alu) (h : x.Reads s v) (nonzero : narrow w v ≠ 0) :
    dividing w f d.field x s = .next (commit w d (f (narrow w (s.reg d)) (narrow w v)) s) := by
  rw [dividing, withReg_field, h.withSource_eq, if_neg nonzero]

theorem dividing_by_zero (f : Nat → Nat → Alu) (h : x.Reads s v) (zero : narrow w v = 0) :
    dividing w f d.field x s = .fault .divideByZero := by
  rw [dividing, withReg_field, h.withSource_eq, if_pos zero]

theorem comparing_of_reads (h : x.Reads s v) :
    comparing w d.field x s = .next (setFlags w (subAlu w (narrow w (s.reg d)) (narrow w v)) s) := by
  rw [comparing, withReg_field, h.withSource_eq]

theorem moving_of_reads (h : x.Reads s v) :
    moving w d.field x s = .next (s.setReg d (zext16 (narrow w v))) := by
  rw [moving, withReg_field, h.withSource_eq]

theorem storing_of_reads (h : x.Reads s v) :
    storing w d.field x s = memWrite w s (s.reg d) (zext16 (narrow w v)) := by
  rw [storing, withReg_field, h.withSource_eq]

theorem jumping_of_reads (taken : Bool) (h : x.Reads s v) :
    jumping taken x s = .next (if taken then s.setReg Reg.pc v else s) := by
  rw [jumping, h.withSource_eq]

end

theorem unary_field (w : Width) (f : Nat → Alu) (d : Reg) (s : State) :
    unary w f d.field s = .next (commit w d (f (narrow w (s.reg d))) s) := by
  rw [unary, withReg_field]

/-! ## Results -/

/-- The outcome is a next state with an operation's result and carry, C as it was where the operation gives none. -/
def CompletesWithAlu (o : Host.Outcome State Fault Refusal) (s : State) (d : Reg) (bits : Nat) (r : Alu) : Prop :=
  CompletesWithResult o s d bits r.result (r.carry.getD (s.flag .c))

/-- A result written back is in its register, tells Z, N and C, and changes nothing else. -/
theorem completesWithAlu_commit (w : Width) (d : Reg) (o : Alu) (s : State) :
    CompletesWithAlu (.next (commit w d o s)) s d (bitsOf w) o := by
  refine ⟨_, rfl, ?value, ?z, ?n, ?c, ?regs, keepsFlags_setFlags w o s, keepsMemory_of_eq (by simp), by simp,
    by simp⟩
  case value => rw [reg_commit, if_pos rfl, zext16]
  case z => exact flag_setFlags w o s .z
  case n => exact flag_setFlags w o s .n
  case c => exact flag_setFlags w o s .c
  case regs => exact fun r other => by rw [reg_commit, if_neg (List.ne_of_not_mem_cons other)]

/-- A two-argument operation, in its four forms. -/
theorem binary_computes (f g : Nat → Nat → Alu) (s : State) (d e : Reg) (k : Word) :
    let a := (s.reg d).toNat
    let b := (s.reg e).toNat
    let l := k.toNat
    CompletesWithAlu (binary .word f d.field (.reg e.field) s) s d 16 (f a b) ∧
    CompletesWithAlu (binary .word f d.field (.lit k) s) s d 16 (f a l) ∧
    CompletesWithAlu (binary .byte g d.field (.reg e.field) s) s d 8 (g (a % 256) (b % 256)) ∧
    CompletesWithAlu (binary .byte g d.field (.lit k) s) s d 8 (g (a % 256) (l % 256)) := by
  simp only [binary_of_reads _ _ _ (.reg e), binary_of_reads _ _ _ (.lit k), narrow_word, narrow_byte]
  exact ⟨completesWithAlu_commit .word d _ s, completesWithAlu_commit .word d _ s,
    completesWithAlu_commit .byte d _ s, completesWithAlu_commit .byte d _ s⟩

/-- An operation that divides, in its four forms, of a divisor that is not 0. -/
theorem dividing_computes (f : Nat → Nat → Alu) (s : State) (d e : Reg) (k : Word) :
    let a := (s.reg d).toNat
    let b := (s.reg e).toNat
    let l := k.toNat
    (b ≠ 0 → CompletesWithAlu (dividing .word f d.field (.reg e.field) s) s d 16 (f a b)) ∧
    (l ≠ 0 → CompletesWithAlu (dividing .word f d.field (.lit k) s) s d 16 (f a l)) ∧
    (b % 256 ≠ 0 → CompletesWithAlu (dividing .byte f d.field (.reg e.field) s) s d 8 (f (a % 256) (b % 256))) ∧
    (l % 256 ≠ 0 → CompletesWithAlu (dividing .byte f d.field (.lit k) s) s d 8 (f (a % 256) (l % 256))) := by
  refine ⟨fun nonzero => ?_, fun nonzero => ?_, fun nonzero => ?_, fun nonzero => ?_⟩
  · rw [dividing_of_reads .word d f (.reg e) (by simpa using nonzero), narrow_word, narrow_word]
    exact completesWithAlu_commit .word d _ s
  · rw [dividing_of_reads .word d f (.lit k) (by simpa using nonzero), narrow_word, narrow_word]
    exact completesWithAlu_commit .word d _ s
  · rw [dividing_of_reads .byte d f (.reg e) nonzero]
    exact completesWithAlu_commit .byte d _ s
  · rw [dividing_of_reads .byte d f (.lit k) nonzero]
    exact completesWithAlu_commit .byte d _ s

/-- A one-argument operation, in its two forms. -/
theorem unary_computes (f g : Nat → Alu) (s : State) (d : Reg) :
    let a := (s.reg d).toNat
    CompletesWithAlu (unary .word f d.field s) s d 16 (f a) ∧
    CompletesWithAlu (unary .byte g d.field s) s d 8 (g (a % 256)) := by
  simp only [unary_field, narrow_word, narrow_byte]
  exact ⟨completesWithAlu_commit .word d _ s, completesWithAlu_commit .byte d _ s⟩

/-! ## Arithmetic (42_arithmetic.md) -/

/-- Settles O10: the sum and the carry are those of `addAlu`. -/
theorem addComputes : Obligations.AddComputes :=
  binary_computes (addAlu .word) (addAlu .byte)

/-- Settles O11: the difference and the borrow are those of `subAlu`. -/
theorem subComputes : Obligations.SubComputes :=
  binary_computes (subAlu .word) (subAlu .byte)

/-- Settles O12: the product and its overflow are those of `mulAlu`. -/
theorem mulComputes : Obligations.MulComputes :=
  binary_computes (mulAlu .word) (mulAlu .byte)

/-- Settles O13: the quotient is that of `divAlu`. -/
theorem divComputes : Obligations.DivComputes :=
  dividing_computes divAlu

/-- MOD's result, written with the quotient, is the remainder. -/
theorem modAlu_eq (a b : Nat) : modAlu a b = ⟨a % b, none⟩ := by
  rw [modAlu, ← Nat.mod_eq_sub_mul_div]

/-- Settles O14: the result is that of `modAlu`, which is the remainder. -/
theorem modComputes : Obligations.ModComputes := by
  intro s d e k
  have computes := dividing_computes modAlu s d e k
  simp only [modAlu_eq] at computes
  exact computes

/-- Settles O15: a narrowed divisor of 0 is the branch of `dividing` that faults. -/
theorem divisionByZeroFaults : Obligations.DivisionByZeroFaults := by
  intro s d e k
  have word_reg (f) (zero : (s.reg e).toNat = 0) : dividing .word f d.field (.reg e.field) s = .fault .divideByZero :=
    dividing_by_zero .word d f (.reg e) (by simpa using zero)
  have word_lit (f) (zero : k.toNat = 0) : dividing .word f d.field (.lit k) s = .fault .divideByZero :=
    dividing_by_zero .word d f (.lit k) (by simpa using zero)
  have byte_reg (f) (zero : (s.reg e).toNat % 256 = 0) :
      dividing .byte f d.field (.reg e.field) s = .fault .divideByZero :=
    dividing_by_zero .byte d f (.reg e) zero
  have byte_lit (f) (zero : k.toNat % 256 = 0) : dividing .byte f d.field (.lit k) s = .fault .divideByZero :=
    dividing_by_zero .byte d f (.lit k) zero
  exact ⟨word_reg divAlu, word_lit divAlu, byte_reg divAlu, byte_lit divAlu,
    word_reg modAlu, word_lit modAlu, byte_reg modAlu, byte_lit modAlu⟩

/-- Settles O16: the result and the carry are those of `incAlu`. -/
theorem incComputes : Obligations.IncComputes :=
  unary_computes (incAlu .word) (incAlu .byte)

/-- DEC's result, in which the modulus is added before 1 is taken away, is the operand plus the modulus less 1. -/
theorem decAlu_eq (w : Width) (a : Nat) :
    decAlu w a = ⟨(a + (2 ^ bitsOf w - 1)) % 2 ^ bitsOf w, some (decide (a = 0))⟩ := by
  have pos : 0 < 2 ^ bitsOf w := Nat.two_pow_pos _
  have sum_eq : 2 ^ bitsOf w + a - 1 = a + (2 ^ bitsOf w - 1) := by omega
  rw [decAlu, sum_eq]

/-- Settles O17: the result and the borrow are those of `decAlu`. -/
theorem decComputes : Obligations.DecComputes := by
  intro s d
  have computes := unary_computes (decAlu .word) (decAlu .byte) s d
  simp only [decAlu_eq] at computes
  exact computes

/-! ## Logic (43_logic.md) -/

/-- Settles O18: the result is that of `andAlu`. -/
theorem andComputes : Obligations.AndComputes :=
  binary_computes andAlu andAlu

/-- Settles O19: the result is that of `orAlu`. -/
theorem orComputes : Obligations.OrComputes :=
  binary_computes orAlu orAlu

/-- The value shifted left, in one formula for the counts up to 16. -/
theorem shlAlu_result (v : Word) (n : Nat) :
    (shlAlu v.toNat n).result = if n ≤ 16 then v.toNat * 2 ^ n % 65536 else 0 := by
  unfold shlAlu
  by_cases zero : n = 0
  · have in_range : v.toNat % 65536 = v.toNat := Nat.mod_eq_of_lt v.isLt
    simp [zero, in_range]
  · by_cases small : n ≤ 16 <;> simp [zero, small]

/-- The last bit shifted out to the left. -/
theorem shlAlu_carry (a n : Nat) (c : Bool) :
    (shlAlu a n).carry.getD c = if n = 0 then c else if n ≤ 16 then a.testBit (16 - n) else false := by
  unfold shlAlu
  split_ifs <;> rfl

/-- The value shifted right, in one formula for the counts up to 16. -/
theorem shrAlu_result (a n : Nat) : (shrAlu a n).result = if n ≤ 16 then a / 2 ^ n else 0 := by
  unfold shrAlu
  by_cases zero : n = 0
  · simp [zero]
  · by_cases small : n ≤ 16 <;> simp [zero, small]

/-- The last bit shifted out to the right. -/
theorem shrAlu_carry (a n : Nat) (c : Bool) :
    (shrAlu a n).carry.getD c = if n = 0 then c else if n ≤ 16 then a.testBit (n - 1) else false := by
  unfold shrAlu
  split_ifs <;> rfl

/-- Settles O20: the value and the carry are those of `shlAlu`, branch by branch. -/
theorem shlComputes : Obligations.ShlComputes := by
  intro s d e k
  obtain ⟨by_reg, by_lit, -⟩ := binary_computes shlAlu shlAlu s d e k
  simp only [CompletesWithAlu, shlAlu_result, shlAlu_carry] at by_reg by_lit
  exact ⟨by_reg, by_lit⟩

/-- Settles O21: the value and the carry are those of `shrAlu`, branch by branch. -/
theorem shrComputes : Obligations.ShrComputes := by
  intro s d e k
  obtain ⟨by_reg, by_lit, -⟩ := binary_computes shrAlu shrAlu s d e k
  simp only [CompletesWithAlu, shrAlu_result, shrAlu_carry] at by_reg by_lit
  exact ⟨by_reg, by_lit⟩

/-- Settles O22: the result is that of `notAlu`. -/
theorem notComputes : Obligations.NotComputes :=
  unary_computes (notAlu .word) (notAlu .byte)

/-! ## Comparison (44_comparison.md) -/

/-- A difference of two `W`-bit numbers is 0 modulo 2^W exactly when they are equal. -/
theorem sub_mod_eq_zero_iff {m a b : Nat} (ha : a < m) (hb : b < m) : (m + a - b) % m = 0 ↔ a = b := by
  rcases Nat.lt_or_ge a b with less | ge
  · rw [Nat.mod_eq_of_lt (by omega)]
    omega
  · have sum_eq : m + a - b = (a - b) + m := by omega
    rw [sum_eq, Nat.add_mod_right, Nat.mod_eq_of_lt (by omega)]
    omega

/-- The flags of a subtraction compare its operands, and nothing else changes. -/
theorem completesComparing_setFlags (w : Width) (s : State) (u v : Word) :
    CompletesComparing (.next (setFlags w (subAlu w (narrow w u) (narrow w v)) s)) s (bitsOf w)
      (narrow w u) (narrow w v) := by
  refine ⟨_, rfl, ?z, ?c, ?n, fun r _ => setFlags_reg .., keepsFlags_setFlags _ _ s, keepsMemory_of_eq (by simp),
    by simp, by simp⟩
  case z =>
    have in_range (x : Word) : narrow w x < 2 ^ bitsOf w := Nat.mod_lt _ (Nat.two_pow_pos _)
    rw [flag_setFlags, decide_eq_decide]
    exact sub_mod_eq_zero_iff (in_range u) (in_range v)
  case c => exact flag_setFlags ..
  case n => exact flag_setFlags ..

/-- Settles O23: CMP writes the flags of `subAlu` and no register. -/
theorem cmpSetsFlagsOnly : Obligations.CmpSetsFlagsOnly := by
  intro s d e k
  have compares (w : Width) {x : Source} {v : Word} (h : x.Reads s v) :
      CompletesComparing (comparing w d.field x s) s (bitsOf w) (narrow w (s.reg d)) (narrow w v) := by
    rw [comparing_of_reads w d h]
    exact completesComparing_setFlags w s (s.reg d) v
  have word_reg := compares .word (.reg e)
  have word_lit := compares .word (.lit k)
  simp only [narrow_word] at word_reg word_lit
  exact ⟨word_reg, word_lit, compares .byte (.reg e), compares .byte (.lit k)⟩

/-! ## Moves to registers and jumps (41_data_transfer.md section 1, 45_control_flow.md section 1) -/

/-- A register written holds the value, and nothing else changes. -/
theorem completesSetting_setReg (s : State) (d : Reg) (v : Word) : CompletesSetting (.next (s.setReg d v)) s d v :=
  ⟨_, rfl, reg_setReg_self s d v, keepsRegs_setReg s d v, keepsFlags_of_eq rfl [], keepsMemory_of_eq rfl, rfl, rfl⟩

/-- The same state is one in which a register holds what it held. -/
theorem completesSetting_self (s : State) (d : Reg) : CompletesSetting (.next s) s d (s.reg d) :=
  ⟨_, rfl, rfl, keepsRegs_self s [d], keepsFlags_of_eq rfl [], keepsMemory_of_eq rfl, keepsOutside_self s⟩

/-- Settles O3: a move writes its narrowed source to its register. -/
theorem movCopiesToRegister : Obligations.MovCopiesToRegister := by
  intro s d e k
  have moves (w : Width) {x : Source} {v : Word} (h : x.Reads s v) :
      CompletesSetting (moving w d.field x s) s d (zext16 (narrow w v)) := by
    rw [moving_of_reads w d h]
    exact completesSetting_setReg s d _
  have word_reg := moves .word (.reg e)
  have word_lit := moves .word (.lit k)
  simp only [narrow_word, zext16_toNat] at word_reg word_lit
  exact ⟨word_reg, word_lit, moves .byte (.reg e), moves .byte (.lit k)⟩

/-- A jump sets the PC to its target where it is taken, and to itself where it is not. -/
theorem jumping_completes (taken : Bool) {s : State} {x : Source} {v : Word} (h : x.Reads s v) :
    CompletesSetting (jumping taken x s) s Reg.pc (if taken = true then v else s.reg Reg.pc) := by
  rw [jumping_of_reads taken h]
  cases taken with
  | true => exact completesSetting_setReg s Reg.pc v
  | false => exact completesSetting_self s Reg.pc

/-- Settles O24: a jump that is always taken. -/
theorem jmpGoesToTarget : Obligations.JmpGoesToTarget :=
  fun _ r k => ⟨jumping_completes true (.reg r), jumping_completes true (.lit k)⟩

/-- The two jumps on a flag, on its being 1 and on its being 0, with a register and with a literal. -/
theorem jumping_on_flag (f : Flag) (s : State) (r : Reg) (k : Word) :
    let pc := s.reg Reg.pc
    CompletesSetting (jumping (s.flag f) (.reg r.field) s) s Reg.pc (if s.flag f = true then s.reg r else pc) ∧
    CompletesSetting (jumping (s.flag f) (.lit k) s) s Reg.pc (if s.flag f = true then k else pc) ∧
    CompletesSetting (jumping (!s.flag f) (.reg r.field) s) s Reg.pc (if s.flag f = false then s.reg r else pc) ∧
    CompletesSetting (jumping (!s.flag f) (.lit k) s) s Reg.pc (if s.flag f = false then k else pc) := by
  have when_clear_reg := jumping_completes (!s.flag f) (.reg r : Source.Reads s _ _)
  have when_clear_lit := jumping_completes (!s.flag f) (.lit k : Source.Reads s _ _)
  simp only [Bool.not_eq_true'] at when_clear_reg when_clear_lit
  exact ⟨jumping_completes _ (.reg r), jumping_completes _ (.lit k), when_clear_reg, when_clear_lit⟩

/-- Settles O25: the jumps on Z. -/
theorem jzJnzTestZero : Obligations.JzJnzTestZero := jumping_on_flag .z

/-- Settles O26: the jumps on N. -/
theorem jnJnnTestNegative : Obligations.JnJnnTestNegative := jumping_on_flag .n

/-- Settles O27: the jumps on C. -/
theorem jcJncTestCarry : Obligations.JcJncTestCarry := jumping_on_flag .c

/-! ## Control and the interrupt flags (40_control.md, 46_interrupt_handle.md) -/

/-- A flag written reads back, and nothing else changes. -/
theorem completes_setFlag (s : State) (f : Flag) (b : Bool) :
    Completes (.next (s.setFlag f b)) fun t =>
      t.flag f = b ∧ KeepsRegs s t [] ∧ KeepsFlags s t [f] ∧ KeepsMemory s t ∧ KeepsOutside s t :=
  ⟨_, rfl, flag_setFlag_self s f b, keepsRegs_self s [], keepsFlags_setFlag s f b, keepsMemory_of_eq rfl, rfl, rfl⟩

/-- Settles O1: the meaning of NOP is the state it is given. -/
theorem nopChangesNothing : Obligations.NopChangesNothing := fun _ => rfl

/-- Settles O2: HLT writes one flag. -/
theorem hltSetsHaltOnly : Obligations.HltSetsHaltOnly := fun s => completes_setFlag s .h true

/-- Settles O30: CLI and SEI write one flag. -/
theorem cliSeiWriteInterruptDisabled : Obligations.CliSeiWriteInterruptDisabled :=
  fun s => ⟨completes_setFlag s .id false, completes_setFlag s .id true⟩

end Sys2Proof.Machine
end

section
/-! The instructions that reach memory: stores, pushes and pulls, and what the devices see of them (20_memory.md sections 2
and 3, 41_data_transfer.md, 45_control_flow.md section 2, 46_interrupt_handle.md). -/

namespace Sys2Proof.Machine

/-! ## The ROM check -/

theorem inRom_iff (a : Word) : inRom a = true ↔ IsRom a := by
  rw [inRom, decide_eq_true_eq, regionOf_eq_rom_iff]

/-- A word is in ROM when either byte is. -/
theorem wordInRom_iff (a : Word) : wordInRom a = true ↔ IsRom a ∨ IsRom (a + 1#16) := by
  rw [wordInRom, Bool.or_eq_true, inRom_iff, inRom_iff]

theorem wordInRom_eq_false {a : Word} (first : ¬IsRom a) (second : ¬IsRom (a + 1#16)) : wordInRom a = false := by
  rw [← Bool.not_eq_true, wordInRom_iff, not_or]
  exact ⟨first, second⟩

/-- The byte after the lower byte of a pushed word. -/
theorem sub_two_add_one (a : Word) : a - 2#16 + 1#16 = a - 1#16 := by bv_omega

/-! ## Bytes written -/

theorem writeEvents_append (xs ys : List (Word × Byte)) :
    writeEvents (xs ++ ys) = writeEvents xs ++ writeEvents ys := by
  induction xs with
  | nil => rfl
  | cons p xs ih =>
    simp only [List.cons_append, writeEvents, ih]
    split <;> rfl

/-- Writes one after the other, at different addresses, are the writes of both. -/
theorem StoresOnly.append {s t u : State} {xs ys : List (Word × Byte)} (first : StoresOnly s t xs)
    (second : StoresOnly t u ys) (apart : ∀ p ∈ xs, ∀ q ∈ ys, q.1 ≠ p.1) : StoresOnly s u (xs ++ ys) := by
  obtain ⟨stored_xs, others_xs, log_xs, requests_xs⟩ := first
  obtain ⟨stored_ys, others_ys, log_ys, requests_ys⟩ := second
  refine ⟨fun p mem ram => ?_, fun a other => ?_, ?_, requests_ys.trans requests_xs⟩
  · rcases List.mem_append.mp mem with in_xs | in_ys
    · rw [others_ys p.1 (apart p in_xs), stored_xs p in_xs ram]
    · exact stored_ys p in_ys ram
  · rw [others_ys a fun p mem => other p (List.mem_append_right xs mem),
      others_xs a fun p mem => other p (List.mem_append_left ys mem)]
  · rw [log_ys, log_xs, writeEvents_append, List.append_assoc]

/-- A byte written is written, and no other; where it lies in ROM there is nothing to store. -/
theorem storesOnly_storeByte (s : State) (a : Word) (b : Byte) : StoresOnly s (storeByte s a b) [(a, b)] := by
  refine ⟨?stored, ?others, ?log, storeByte_requests s a b⟩
  case stored =>
    intro p mem ram
    obtain rfl := List.mem_singleton.mp mem
    rw [stored_storeByte, if_pos ⟨(regionOf_eq_ram_iff a).mpr ram, rfl⟩]
  case others =>
    intro x other
    have ne : x ≠ a := (other (a, b) (List.mem_singleton_self _)).symm
    rw [stored_storeByte, if_neg fun h => ne h.2]
  case log =>
    rw [devLog_storeByte]
    by_cases device : IsDevice a <;> simp [writeEvents, regionOf_eq_devices_iff, device]

/-- A word written is its high byte and then its low byte written. -/
theorem storesOnly_storeWord (s : State) (a v : Word) :
    StoresOnly s (storeWord s a v) [(a, hiByte v), (a + 1#16, loByte v)] := by
  refine (storesOnly_storeByte s a (hiByte v)).append (storesOnly_storeByte _ (a + 1#16) (loByte v)) ?_
  intro p in_first q in_second
  obtain rfl := List.mem_singleton.mp in_first
  obtain rfl := List.mem_singleton.mp in_second
  simp

/-! ## Stores (41_data_transfer.md section 1) -/

section
variable {s : State} {a : Word} (v : Word)

theorem memWrite_word_next (first : ¬IsRom a) (second : ¬IsRom (a + 1#16)) :
    memWrite .word s a v = .next (storeWord s a v) := by
  simp [memWrite, wordInRom_eq_false first second]

theorem memWrite_word_fault (rom : IsRom a ∨ IsRom (a + 1#16)) : memWrite .word s a v = .fault .romWrite := by
  simp [memWrite, (wordInRom_iff a).mpr rom]

theorem memWrite_byte_next (notRom : ¬IsRom a) : memWrite .byte s a v = .next (storeByte s a (loByte v)) := by
  have out : inRom a = false := by rwa [← Bool.not_eq_true, inRom_iff]
  simp [memWrite, out]

theorem memWrite_byte_fault (rom : IsRom a) : memWrite .byte s a v = .fault .romWrite := by
  simp [memWrite, (inRom_iff a).mpr rom]

end

/-- Settles O4: a word store writes the two bytes of its source. -/
theorem movStoresWord : Obligations.MovStoresWord := by
  intro s d e k first second
  have stores {x : Source} {v : Word} (h : x.Reads s v) :
      CompletesStoring (storing .word d.field x s) s [(s.reg d, hiByte v), (s.reg d + 1#16, loByte v)] := by
    rw [storing_of_reads .word d h, narrow_word, zext16_toNat, memWrite_word_next v first second]
    exact ⟨_, rfl, fun r _ => storeWord_reg .., keepsFlags_of_eq (storeWord_flags ..) [], storesOnly_storeWord s _ v⟩
  exact ⟨stores (.reg e), stores (.lit k)⟩

/-- Settles O5: a byte store writes the low byte of its source. -/
theorem movStoresByte : Obligations.MovStoresByte := by
  intro s d e k notRom
  have stores {x : Source} {v : Word} (h : x.Reads s v) :
      CompletesStoring (storing .byte d.field x s) s [(s.reg d, loByte v)] := by
    rw [storing_of_reads .byte d h, narrow_byte, memWrite_byte_next _ notRom, loByte_zext16_mod]
    exact ⟨_, rfl, fun r _ => storeByte_reg .., keepsFlags_of_eq (storeByte_flags ..) [], storesOnly_storeByte s _ _⟩
  exact ⟨stores (.reg e), stores (.lit k)⟩

/-- Settles O6: the ROM check of a store is made on all its bytes. -/
theorem storeToRomFaults : Obligations.StoreToRomFaults := by
  intro s d e k
  have word {x : Source} {v : Word} (h : x.Reads s v) (rom : IsRom (s.reg d) ∨ IsRom (s.reg d + 1#16)) :
      storing .word d.field x s = .fault .romWrite := by
    rw [storing_of_reads .word d h, memWrite_word_fault _ rom]
  have byte {x : Source} {v : Word} (h : x.Reads s v) (rom : IsRom (s.reg d)) :
      storing .byte d.field x s = .fault .romWrite := by
    rw [storing_of_reads .byte d h, memWrite_byte_fault _ rom]
  exact ⟨fun rom => ⟨word (.reg e) rom, word (.lit k) rom⟩, fun rom => ⟨byte (.reg e) rom, byte (.lit k) rom⟩⟩

/-! ## Pushes (41_data_transfer.md section 2, 45_control_flow.md section 2) -/

section
variable {s : State} (v : Word) (k : State → State)

theorem push_next (lower : ¬IsRom (s.reg Reg.sp - 2#16)) (upper : ¬IsRom (s.reg Reg.sp - 1#16)) :
    push s v k = .next (k (pushWord s v)) := by
  rw [← sub_two_add_one] at upper
  simp [push, wordInRom_eq_false lower upper]

theorem push_fault (rom : IsRom (s.reg Reg.sp - 2#16) ∨ IsRom (s.reg Reg.sp - 1#16)) :
    push s v k = .fault .romWrite := by
  rw [← sub_two_add_one] at rom
  simp [push, (wordInRom_iff _).mpr rom]

end

theorem exec_phrR_field (s : State) (r : Reg) : exec (.phrR r.field) s = push s (s.reg r) fun t => t :=
  withReg_field r _

theorem exec_jsbL (s : State) (k : Word) :
    exec (.jsbL k) s = push s (s.reg Reg.pc) fun t => t.setReg Reg.pc k := rfl

theorem reg_sp_pushWord (s : State) (v : Word) : (pushWord s v).reg Reg.sp = s.reg Reg.sp - 2#16 := by
  rw [reg_pushWord, if_pos rfl]

theorem reg_pushWord_of_ne (s : State) (v : Word) {r : Reg} (ne : r ≠ Reg.sp) : (pushWord s v).reg r = s.reg r := by
  rw [reg_pushWord, if_neg ne]

/-- A push writes the two bytes below SP, the high byte at the lower address. -/
theorem storesOnly_pushWord (s : State) (v : Word) :
    StoresOnly s (pushWord s v) [(s.reg Reg.sp - 2#16, hiByte v), (s.reg Reg.sp - 1#16, loByte v)] := by
  rw [← sub_two_add_one]
  exact storesOnly_storeWord (s.setReg Reg.sp (s.reg Reg.sp - 2#16)) (s.reg Reg.sp - 2#16) v

/-- Settles O7: PHR is a push and nothing after it. -/
theorem phrPushesRegister : Obligations.PhrPushesRegister := by
  intro s r lower upper
  rw [exec_phrR_field, push_next _ _ lower upper]
  exact ⟨_, rfl, trivial, reg_sp_pushWord .., fun q other => reg_pushWord_of_ne s _ (List.ne_of_not_mem_cons other),
    keepsFlags_of_eq (pushWord_flags ..) [], storesOnly_pushWord s _⟩

/-- Settles O8: PHR and JSB make the same ROM check. -/
theorem pushIntoRomFaults : Obligations.PushIntoRomFaults := by
  intro s r k rom
  exact ⟨by rw [exec_phrR_field, push_fault _ _ rom], by rw [exec_jsbL, push_fault _ _ rom]⟩

/-- Settles O28: JSB is a push of the PC, and then the PC written. -/
theorem jsbPushesAndJumps : Obligations.JsbPushesAndJumps := by
  intro s k lower upper
  have sp_ne_pc : Reg.sp ≠ Reg.pc := by decide
  rw [exec_jsbL, push_next _ _ lower upper]
  refine ⟨_, rfl, reg_setReg_self .., ?sp, ?regs, keepsFlags_of_eq (pushWord_flags ..) [],
    storesOnly_pushWord s _⟩
  case sp => rw [reg_setReg_of_ne _ k sp_ne_pc, reg_sp_pushWord]
  case regs =>
    intro q other
    obtain ⟨not_sp, not_pc⟩ : q ≠ Reg.sp ∧ q ≠ Reg.pc := by simpa using other
    rw [reg_setReg_of_ne _ k not_pc, reg_pushWord_of_ne s _ not_sp]

/-! ## Pulls (20_memory.md R36, 41_data_transfer.md section 2) -/

/-- What a read of one byte gives and what it leaves, in the terms of the statements. -/
theorem readByte_eq (s : State) (a : Word) :
    readByte s a = (byteSeen s s.devLog a, { s with devLog := logAfter s.devLog a }) := by
  rcases readByte_cases s a with ⟨device, h⟩ | ⟨other, h⟩
  · rw [regionOf_eq_devices_iff] at device
    rw [h, byteSeen, logAfter, if_pos device, if_pos device]
  · rw [ne_eq, regionOf_eq_devices_iff] at other
    rw [h, byteSeen, logAfter, if_neg other, if_neg other]

/-- What a read of one word gives and what it leaves. -/
theorem readWord_eq (s : State) (a : Word) :
    readWord s a = (wordSeen s s.devLog a, { s with devLog := logAfterWord s.devLog a }) := by
  simp only [readWord, readByte_eq]
  rfl

theorem pull_fst (s : State) : (pull s).1 = wordSeen s s.devLog (s.reg Reg.sp) := by
  rw [pull, readWord_eq]

theorem pull_devLog (s : State) : (pull s).2.devLog = logAfterWord s.devLog (s.reg Reg.sp) := by
  rw [pull, readWord_eq]
  rfl

theorem reg_sp_pull (s : State) : (pull s).2.reg Reg.sp = s.reg Reg.sp + 2#16 := by
  rw [reg_pull, if_pos rfl]

theorem reg_pull_of_ne (s : State) {r : Reg} (ne : r ≠ Reg.sp) : (pull s).2.reg r = s.reg r := by
  rw [reg_pull, if_neg ne]

/-- What a word reads as depends on the stored bytes and the accesses before it only. -/
theorem wordSeen_congr {s t : State} (h : t.mem = s.mem) (log : List DevEvent) (a : Word) :
    wordSeen t log a = wordSeen s log a := by
  simp only [wordSeen, byteSeen, State.stored, h]

theorem exec_plrR_field (s : State) (d : Reg) : exec (.plrR d.field) s = .next ((pull s).2.setReg d (pull s).1) :=
  withReg_field d _

/-- Settles O9: PLR is a pull and then its register written. -/
theorem plrPullsRegister : Obligations.PlrPullsRegister := by
  intro s d
  refine ⟨_, exec_plrR_field s d, ?value, ?sp, ?regs, keepsFlags_of_eq (pull_flags s) [],
    keepsMemory_of_eq (pull_mem s), pull_devLog s, pull_requests s⟩
  case value => rw [reg_setReg_self, pull_fst]
  case sp => exact fun ne => by rw [reg_setReg_of_ne _ _ ne.symm, reg_sp_pull]
  case regs =>
    intro q other
    obtain ⟨not_d, not_sp⟩ : q ≠ d ∧ q ≠ Reg.sp := by simpa using other
    rw [reg_setReg_of_ne _ _ not_d, reg_pull_of_ne s not_sp]

/-- Settles O29: RSB is PLR with the PC as its register. -/
theorem rsbPullsPc : Obligations.RsbPullsPc := by
  intro s
  obtain ⟨t, outcome, value, sp, frame⟩ := plrPullsRegister s Reg.pc
  rw [exec_plrR_field] at outcome
  exact ⟨t, outcome, value, sp (by decide), frame⟩

/-! ## Return from interrupt (46_interrupt_handle.md R132) -/

/-- The PC after a return is the second word pulled. -/
theorem reg_pc_interruptReturn (s : State) : (interruptReturn s).reg Reg.pc =
    wordSeen s (logAfterWord s.devLog (s.reg Reg.sp)) (s.reg Reg.sp + 2#16) := by
  rw [interruptReturn, reg_setReg_self, pull_fst, pull_devLog, reg_sp_pull, wordSeen_congr (pull_mem s)]

/-- SP after a return is 4 higher. -/
theorem reg_sp_interruptReturn (s : State) : (interruptReturn s).reg Reg.sp = s.reg Reg.sp + 4#16 := by
  have sp_ne_pc : Reg.sp ≠ Reg.pc := by decide
  calc (interruptReturn s).reg Reg.sp
      = (pull (pull s).2).2.reg Reg.sp := reg_setReg_of_ne _ _ sp_ne_pc
    _ = s.reg Reg.sp + 2#16 + 2#16 := by rw [reg_sp_pull, reg_sp_pull]
    _ = s.reg Reg.sp + 4#16 := by bv_omega

/-- A return writes no register but the PC and SP. -/
theorem keepsRegs_interruptReturn (s : State) : KeepsRegs s (interruptReturn s) [Reg.pc, Reg.sp] := by
  intro q other
  obtain ⟨not_pc, not_sp⟩ : q ≠ Reg.pc ∧ q ≠ Reg.sp := by simpa using other
  calc (interruptReturn s).reg q
      = (pull (pull s).2).2.reg q := reg_setReg_of_ne _ _ not_pc
    _ = s.reg q := by rw [reg_pull_of_ne _ not_sp, reg_pull_of_ne s not_sp]

/-- FLAGS after a return: restored from the first word pulled. -/
theorem interruptReturn_flags (s : State) :
    (interruptReturn s).flags = restoreFlags s.flags (wordSeen s s.devLog (s.reg Reg.sp)) := by
  rw [interruptReturn, setReg_flags, pull_flags, pull_flags, pull_fst]

@[simp] theorem interruptReturn_mem (s : State) : (interruptReturn s).mem = s.mem := by
  simp [interruptReturn]

@[simp] theorem interruptReturn_requests (s : State) : (interruptReturn s).requests = s.requests := by
  simp [interruptReturn]

/-- The devices see the reads of both words, in order. -/
theorem interruptReturn_devLog (s : State) : (interruptReturn s).devLog =
    logAfterWord (logAfterWord s.devLog (s.reg Reg.sp)) (s.reg Reg.sp + 2#16) := by
  rw [interruptReturn, setReg_devLog, pull_devLog, pull_devLog, reg_sp_pull]

/-- A return restores bits 3 to 0 of FLAGS and keeps every other bit. -/
theorem getLsbD_interruptReturn_flags (s : State) (k : Nat) : (interruptReturn s).flags.getLsbD k =
    if k < 4 then (wordSeen s s.devLog (s.reg Reg.sp)).getLsbD k else s.flags.getLsbD k := by
  rw [interruptReturn_flags]
  by_cases in_byte : k < 8
  · exact getLsbD_restoreFlags _ _ k in_byte
  · have past : 8 ≤ k := Nat.le_of_not_lt in_byte
    have not_low : ¬k < 4 := by omega
    rw [if_neg not_low, BitVec.getLsbD_of_ge _ k past, BitVec.getLsbD_of_ge _ k past]

/-- Settles O31: RSI is a return from interrupt. -/
theorem rsiRestoresFlagsAndPc : Obligations.RsiRestoresFlagsAndPc := by
  intro s
  refine ⟨_, rfl, fun k low => ?_, fun k high => ?_, reg_pc_interruptReturn s, reg_sp_interruptReturn s,
    keepsRegs_interruptReturn s, keepsMemory_of_eq (interruptReturn_mem s), interruptReturn_devLog s,
    interruptReturn_requests s⟩
  · rw [getLsbD_interruptReturn_flags, if_pos low]
  · rw [getLsbD_interruptReturn_flags, if_neg (Nat.not_lt.mpr high)]

end Sys2Proof.Machine
end

section
/-! The step: the environment's move, the halted machine, fetching, illegal bytes, interrupt entry (30_encoding.md R58 and
R60, 60_exceptions.md section 2). -/

namespace Sys2Proof.Machine

/-! ## The environment's move (60_exceptions.md R144) -/

/-- Settles O36: whichever way the schedule goes, at most IP is written. -/
theorem environmentOnlyRequests : Obligations.EnvironmentOnlyRequests := by
  intro s
  rcases environmentMoves_cases s with ⟨no_move, h⟩ | ⟨rest, request, h⟩ | ⟨rest, quiet, h⟩
  · rw [h, no_move]
    exact ⟨(Bool.or_false _).symm, keepsRegs_self s [], keepsFlags_of_eq rfl _, keepsMemory_of_eq rfl, rfl, no_move⟩
  · rw [h, request]
    exact ⟨by simp, keepsRegs_self s [], keepsFlags_setFlag { s with requests := rest } .ip true,
      keepsMemory_of_eq rfl, rfl, rfl⟩
  · rw [h, quiet]
    exact ⟨(Bool.or_false _).symm, keepsRegs_self s [], keepsFlags_of_eq rfl _, keepsMemory_of_eq rfl, rfl, rfl⟩

/-- Settles O35: the environment does not touch H, and a halted step is the environment's move alone. -/
theorem haltedMachineOnlyHearsRequests : Obligations.HaltedMachineOnlyHearsRequests := by
  intro s halted
  obtain ⟨-, -, flags, -⟩ := environmentOnlyRequests s
  have still_halted : (environmentMoves s).flag .h = true := by
    rw [← halted]
    exact flags Flag.h.pos (by decide) (by decide)
  exact ⟨environmentMoves s, by simp [step, still_halted], environmentOnlyRequests s⟩

/-! ## Reading bytes in order (30_encoding.md R58 step 4) -/

/-- The accesses made to the devices once `k` bytes are read from an address on. -/
def logAfterBytes (log : List DevEvent) (a : Word) (k : Nat) : List DevEvent :=
  ((List.range k).map fun j => a + BitVec.ofNat 16 j).foldl logAfter log

theorem add_ofNat_succ (a : Word) (j : Nat) : a + BitVec.ofNat 16 (j + 1) = a + 1#16 + BitVec.ofNat 16 j := by
  rw [Nat.add_comm j 1, BitVec.ofNat_add, BitVec.add_assoc]

/-- The first byte's access comes first. -/
theorem logAfterBytes_succ (log : List DevEvent) (a : Word) (k : Nat) :
    logAfterBytes log a (k + 1) = logAfterBytes (logAfter log a) (a + 1#16) k := by
  have addresses : (fun j => a + BitVec.ofNat 16 j) ∘ Nat.succ = fun j => a + 1#16 + BitVec.ofNat 16 j :=
    funext (add_ofNat_succ a)
  rw [logAfterBytes, List.range_succ_eq_map, List.map_cons, List.map_map, addresses, List.foldl_cons, BitVec.add_zero,
    logAfterBytes]

/-- Where no byte is a device's, the devices see nothing. -/
theorem logAfterBytes_of_not_device (log : List DevEvent) (a : Word) (n : Nat)
    (outside : ∀ k, k < n → ¬IsDevice (a + BitVec.ofNat 16 k)) : logAfterBytes log a n = log := by
  induction n generalizing a with
  | zero => rfl
  | succ n ih =>
    have first : ¬IsDevice a := by simpa using outside 0 (Nat.succ_pos n)
    rw [logAfterBytes_succ, logAfter, if_neg first]
    exact ih (a + 1#16) fun k hk => by rw [← add_ofNat_succ]; exact outside (k + 1) (Nat.succ_lt_succ hk)

/-- What a read of several bytes gives and what it leaves: each byte given the accesses of those before it. -/
theorem readBytes_eq (n : Nat) (a : Word) (s : State) :
    readBytes n a s =
      ((List.range n).map fun k => byteSeen s (logAfterBytes s.devLog a k) (a + BitVec.ofNat 16 k),
        { s with devLog := logAfterBytes s.devLog a n }) := by
  induction n generalizing a s with
  | zero => rfl
  | succ n ih =>
    have later : (fun k => byteSeen s (logAfterBytes s.devLog a k) (a + BitVec.ofNat 16 k)) ∘ Nat.succ =
        fun k => byteSeen s (logAfterBytes (logAfter s.devLog a) (a + 1#16) k) (a + 1#16 + BitVec.ofNat 16 k) :=
      funext fun k => by rw [Function.comp_apply, Nat.succ_eq_add_one, logAfterBytes_succ, add_ofNat_succ a k]
    rw [List.range_succ_eq_map, List.map_cons, List.map_map, later, logAfterBytes_succ, BitVec.add_zero, readBytes,
      readByte_eq, ih]
    rfl

/-- Settles O34: the first clause is `readBytes_eq`; outside the device region a byte seen is a byte stored. -/
theorem fetchReadsBytesInOrder : Obligations.FetchReadsBytesInOrder := by
  intro n a s
  refine ⟨readBytes_eq n a s, fun outside => ?_⟩
  rw [readBytes_eq, logAfterBytes_of_not_device _ a n outside, List.map_map, Prod.mk.injEq]
  refine ⟨List.map_congr_left fun k mem => ?_, rfl⟩
  rw [byteSeen, if_neg (outside k (List.mem_range.mp mem)), Function.comp_apply]

/-- Fewer bytes read are the first of more. -/
theorem readBytes_take {k n : Nat} (le : k ≤ n) (a : Word) (s : State) :
    (readBytes k a s).1 = (readBytes n a s).1.take k := by
  rw [readBytes_eq, readBytes_eq, ← List.map_take, List.take_range, Nat.min_eq_left le]

/-! ## Fetch and decode (30_encoding.md R58 steps 3 to 5) -/

section
variable {s : State}

/-- A machine that runs and takes no interrupt does what it fetched. -/
theorem step_of_fetch_ok (running : (environmentMoves s).flag .h = false)
    (quiet : (environmentMoves s).flag .ip = false ∨ (environmentMoves s).flag .id = true) {f : Fetched}
    (fetched : fetch (environmentMoves s) = .ok f) : step s = exec f.instr f.state := by
  have takes_none : (environmentMoves s).takesInterrupt = false := by
    rcases quiet with ip | id <;> simp [State.takesInterrupt, *]
  simp [step, running, takes_none, fetched]

/-- A machine that runs and takes no interrupt faults where it cannot fetch. -/
theorem step_of_fetch_error (running : (environmentMoves s).flag .h = false)
    (quiet : (environmentMoves s).flag .ip = false ∨ (environmentMoves s).flag .id = true) {e : DecodeError}
    (refused : fetch (environmentMoves s) = .error e) : step s = .fault .illegalInstruction := by
  have takes_none : (environmentMoves s).takesInterrupt = false := by
    rcases quiet with ip | id <;> simp [State.takesInterrupt, *]
  simp [step, running, takes_none, refused]

/-- A first byte of no form ends the fetch. -/
theorem fetch_of_formOf_error {e : DecodeError} (illegal : formOf (readByte s (s.reg Reg.pc)).1 = .error e) :
    fetch s = .error e := by
  simp [fetch, lengthOf, illegal]

/-- A first byte of a form has the fetch read as many bytes as the form has, and decode their arguments. -/
theorem fetch_of_formOf_ok {f : Form} (begins : formOf (readByte s (s.reg Reg.pc)).1 = .ok f) {m : Nat}
    (len : f.len = m + 1) :
    let bytes := readBytes (m + 1) (s.reg Reg.pc) s
    (∀ i rest, decodeArgs f bytes.1.tail = .ok (i, rest) →
      fetch s = .ok ⟨i, advancePc bytes.2 (s.reg Reg.pc) (m + 1)⟩) ∧
    (∀ e, decodeArgs f bytes.1.tail = .error e → fetch s = .error e) := by
  refine ⟨fun i rest args => ?_, fun e args => ?_⟩ <;>
    simp only [readBytes, List.tail_cons] at args <;>
    simp [fetch, lengthOf, begins, len, decode, args, readBytes]

end

/-- Settles O32: bytes that decode to `i` alone are `i`'s encoding, so the fetch reads as many and decodes the same. -/
theorem stepRunsDecodedInstruction : Obligations.StepRunsDecodedInstruction := by
  intro s i n b bytes running quiet decodes _
  obtain ⟨b0, tail, f, bytes_eq, begins, args⟩ := decode_eq_ok decodes
  obtain ⟨j, rfl, rfl⟩ := formOf_eq_ok begins
  have length_eq : j.form.len = n := by
    obtain ⟨-, encoded⟩ := encodeInvertsDecode _ _ _ decodes
    obtain ⟨a, made, -, -⟩ := decodeArgs_eq_ok args
    obtain ⟨row_eq, -⟩ := row_and_args_of_form_apply made
    have same_length : lengthOf j.row.firstByte = .ok (encode i).length := by rw [← row_eq, lengthOf_firstByte]
    rw [lengthOf_firstByte] at same_length
    rw [form_len_eq_length, Except.ok.inj same_length, ← List.append_nil (encode i), ← encoded, readBytes_length]
  cases n with
  | zero => cases bytes_eq
  | succ m =>
    have first_eq : (readByte b (b.reg Reg.pc)).1 = j.row.firstByte := (List.cons.inj bytes_eq).1
    have tail_eq : bytes.1.tail = tail := by rw [bytes_eq, List.tail_cons]
    rw [← first_eq] at begins
    rw [← tail_eq] at args
    exact step_of_fetch_ok running quiet ((fetch_of_formOf_ok begins length_eq).1 i [] args)

/-- A check that refuses does so whatever it would have let through. -/
theorem ite_error_congr {α : Type} {p : Prop} [Decidable p] {x y : α} {d e : DecodeError}
    (h : (if p then .ok x else .error d) = (.error e : Except DecodeError α)) :
    (if p then .ok y else .error d) = (.error e : Except DecodeError α) := by
  split at h
  next => cases h
  next refused => rw [if_neg refused, h]

/-- Argument bytes refused for another reason than being too few are at least as many as the form has, and the form's own
number of them is refused too. -/
theorem decodeArgs_take_of_error {f : Form} {bs : List Byte} {e : DecodeError} (h : decodeArgs f bs = .error e)
    (enough : e ≠ .tooShort) {m : Nat} (len : f.len = m + 1) : m ≤ bs.length ∧ decodeArgs f (bs.take m) = .error e := by
  unfold decodeArgs at h
  split at h
  next => cases h
  next mk x tail =>
    obtain rfl : 1 = m := Nat.succ.inj len
    exact ⟨by simp, ite_error_congr h⟩
  next mk x y tail =>
    obtain rfl : 2 = m := Nat.succ.inj len
    exact ⟨by simp, ite_error_congr h⟩
  next => cases h
  next mk x hi lo tail =>
    obtain rfl : 3 = m := Nat.succ.inj len
    exact ⟨by simp, ite_error_congr h⟩
  next =>
    cases h
    exact absurd rfl enough

/-- Settles O33: what refuses the bytes is the first byte, or a Reg byte among those that the fetch reads too. -/
theorem illegalBytesFault : Obligations.IllegalBytesFault := by
  intro s n e b running quiet refused enough
  cases n with
  | zero => cases refused; exact absurd rfl enough
  | succ n =>
    cases begins : formOf (readByte b (b.reg Reg.pc)).1 with
    | error _ => exact step_of_fetch_error running quiet (fetch_of_formOf_error begins)
    | ok f =>
      obtain ⟨m, len⟩ : ∃ m, f.len = m + 1 := by cases f <;> exact ⟨_, rfl⟩
      simp only [readBytes, decode, begins] at refused
      obtain ⟨le, args⟩ := decodeArgs_take_of_error refused enough len
      rw [readBytes_length] at le
      rw [← readBytes_take le] at args
      exact step_of_fetch_error running quiet ((fetch_of_formOf_ok begins len).2 e args)

/-! ## Interrupt entry (60_exceptions.md R145 to R148) -/

/-- The state after interrupt entry: PC and FLAGS pushed, IP cleared, ID set, control at the vector. -/
def entered (s : State) : State :=
  ((pushWord (pushWord (s.setFlag .ip false) (s.reg Reg.pc)) ((s.setFlag .ip false).flags.setWidth 16)).setFlag
    .id true).setReg Reg.pc Config.irqVector

theorem sub_four_add_one (a : Word) : a - 4#16 + 1#16 = a - 3#16 := by bv_omega

/-- Entry checks the four bytes below SP. -/
theorem entry_rom_check_iff (sp : Word) : (wordInRom (sp - 4#16) || wordInRom (sp - 2#16)) = true ↔
    IsRom (sp - 1#16) ∨ IsRom (sp - 2#16) ∨ IsRom (sp - 3#16) ∨ IsRom (sp - 4#16) := by
  rw [Bool.or_eq_true, wordInRom_iff, wordInRom_iff, sub_four_add_one, sub_two_add_one]
  tauto

section
variable {s : State}

theorem interruptEntry_next (one : ¬IsRom (s.reg Reg.sp - 1#16)) (two : ¬IsRom (s.reg Reg.sp - 2#16))
    (three : ¬IsRom (s.reg Reg.sp - 3#16)) (four : ¬IsRom (s.reg Reg.sp - 4#16)) :
    interruptEntry s = .next (entered s) := by
  rcases interruptEntry_cases s with ⟨rom, -⟩ | ⟨-, next⟩
  · rw [entry_rom_check_iff] at rom
    tauto
  · exact next

theorem interruptEntry_fault (rom : IsRom (s.reg Reg.sp - 1#16) ∨ IsRom (s.reg Reg.sp - 2#16) ∨
    IsRom (s.reg Reg.sp - 3#16) ∨ IsRom (s.reg Reg.sp - 4#16)) : interruptEntry s = .fault .romWrite := by
  simp only [interruptEntry, (entry_rom_check_iff _).mpr rom, if_true]

/-- A pending, enabled interrupt is taken before anything is fetched. -/
theorem step_of_interrupt (running : (environmentMoves s).flag .h = false)
    (pending : (environmentMoves s).flag .ip = true) (enabled : (environmentMoves s).flag .id = false) :
    step s = interruptEntry (environmentMoves s) := by
  have takes : (environmentMoves s).takesInterrupt = true := by simp [State.takesInterrupt, pending, enabled]
  simp [step, running, takes]

end

theorem reg_sp_entered (s : State) : (entered s).reg Reg.sp = s.reg Reg.sp - 4#16 := by
  have sp_ne_pc : Reg.sp ≠ Reg.pc := by decide
  rw [entered, reg_setReg_of_ne _ _ sp_ne_pc, setFlag_reg, reg_sp_pushWord, reg_sp_pushWord, setFlag_reg]
  bv_omega

/-- Entry writes no register but the PC and SP. -/
theorem keepsRegs_entered (s : State) : KeepsRegs s (entered s) [Reg.pc, Reg.sp] := by
  intro q other
  obtain ⟨not_pc, not_sp⟩ : q ≠ Reg.pc ∧ q ≠ Reg.sp := by simpa using other
  rw [entered, reg_setReg_of_ne _ _ not_pc, setFlag_reg, reg_pushWord_of_ne _ _ not_sp, reg_pushWord_of_ne _ _ not_sp,
    setFlag_reg]

/-- FLAGS after entry: IP cleared, ID set, every other bit kept. -/
theorem getLsbD_entered_flags (s : State) (k : Nat) : (entered s).flags.getLsbD k =
    if k = Flag.id.pos then true else if k = Flag.ip.pos then false else s.flags.getLsbD k := by
  rw [entered, setReg_flags, getLsbD_setFlag, pushWord_flags, pushWord_flags, getLsbD_setFlag]

/-- A byte as a word has a high byte of 0. -/
@[simp] theorem hiByte_setWidth (v : Byte) : hiByte (v.setWidth 16) = 0#8 := by
  refine BitVec.eq_of_toNat_eq ?_
  have in_byte := v.isLt
  simp only [hiByte, BitVec.extractLsb'_toNat, BitVec.toNat_setWidth, BitVec.toNat_ofNat, Nat.shiftRight_eq_div_pow]
  omega

/-- A byte as a word has itself as its low byte. -/
@[simp] theorem loByte_setWidth (v : Byte) : loByte (v.setWidth 16) = v := by
  refine BitVec.eq_of_toNat_eq ?_
  have in_byte := v.isLt
  simp only [loByte, BitVec.extractLsb'_toNat, BitVec.toNat_setWidth, Nat.shiftRight_zero]
  omega

/-- Entry writes the PC and then FLAGS with IP cleared, as a word, below SP. -/
theorem storesOnly_entered (s : State) :
    StoresOnly s (entered s)
      [(s.reg Reg.sp - 2#16, hiByte (s.reg Reg.pc)), (s.reg Reg.sp - 1#16, loByte (s.reg Reg.pc)),
        (s.reg Reg.sp - 4#16, 0#8), (s.reg Reg.sp - 3#16, (s.setFlag .ip false).flags)] := by
  have pc_saved := storesOnly_pushWord (s.setFlag .ip false) (s.reg Reg.pc)
  have flags_saved := storesOnly_pushWord (pushWord (s.setFlag .ip false) (s.reg Reg.pc))
    ((s.setFlag .ip false).flags.setWidth 16)
  have four (a : Word) : a - 2#16 - 2#16 = a - 4#16 := by bv_omega
  have three (a : Word) : a - 2#16 - 1#16 = a - 3#16 := by bv_omega
  simp only [reg_sp_pushWord, setFlag_reg, hiByte_setWidth, loByte_setWidth, four, three] at pc_saved flags_saved
  refine pc_saved.append flags_saved ?_
  simp only [List.mem_cons, List.not_mem_nil, or_false, forall_eq_or_imp, forall_eq]
  refine ⟨⟨?_, ?_⟩, ?_, ?_⟩ <;> bv_omega

/-- FLAGS as entry saves it: where H, ID and the reserved bits are 0, only Z, C and N are left. -/
theorem flags_saved_eq {s : State} (running : s.flag .h = false) (enabled : s.flag .id = false)
    (five : s.flags.getLsbD 5 = false) (six : s.flags.getLsbD 6 = false) :
    (s.setFlag .ip false).flags = s.flags &&& 0x07#8 := by
  simp only [State.flag, Flag.pos] at running enabled
  refine BitVec.eq_of_getLsbD_eq fun k in_byte => ?_
  rw [getLsbD_setFlag, BitVec.getLsbD_and, Flag.pos]
  interval_cases k <;> simp_all

/-- Settles O37: the step is interrupt entry, and no byte it pushes is in ROM. -/
theorem interruptEntrySavesPcAndFlags : Obligations.InterruptEntrySavesPcAndFlags := by
  intro s b sp pc running pending enabled five six one two three four
  have bits := getLsbD_entered_flags b
  refine ⟨entered b, ?step, reg_setReg_self .., reg_sp_entered b, keepsRegs_entered b, ?ip, ?id, ?flags, ?stores⟩
  case step => rw [step_of_interrupt running pending enabled, interruptEntry_next one two three four]
  case ip => exact bits Flag.ip.pos
  case id => exact bits Flag.id.pos
  case flags =>
    intro k _ others
    rw [bits, if_neg (others .id (by simp)).symm, if_neg (others .ip (by simp)).symm]
  case stores =>
    rw [← flags_saved_eq running enabled five six]
    exact storesOnly_entered b

/-- Settles O38: entry's ROM check is made on all four bytes. -/
theorem interruptEntryIntoRomFaults : Obligations.InterruptEntryIntoRomFaults := by
  intro s b sp running pending enabled rom
  rw [step_of_interrupt running pending enabled, interruptEntry_fault rom]

end Sys2Proof.Machine
end

section
/-! What every instruction and every step keeps: the effects an instruction can have, the invariant, the ROM, the devices'
history, the flags (10_state.md section 3, 20_memory.md section 2). -/

namespace Sys2Proof.Machine

/-! ## The effects of instructions -/

/-- The flags an instruction may write (10_state.md R20). -/
def flagsWritten : Instr → List Flag
  | .addRR _ _ | .addRL _ _ | .addBRR _ _ | .addBRL _ _ | .subRR _ _ | .subRL _ _ | .subBRR _ _ | .subBRL _ _
  | .mulRR _ _ | .mulRL _ _ | .mulBRR _ _ | .mulBRL _ _ | .incR _ | .incBR _ | .decR _ | .decBR _
  | .shlRR _ _ | .shlRL _ _ | .shrRR _ _ | .shrRL _ _ | .cmpRR _ _ | .cmpRL _ _ | .cmpBRR _ _ | .cmpBRL _ _ =>
    [.z, .n, .c]
  | .divRR _ _ | .divRL _ _ | .divBRR _ _ | .divBRL _ _ | .modRR _ _ | .modRL _ _ | .modBRR _ _ | .modBRL _ _
  | .andRR _ _ | .andRL _ _ | .andBRR _ _ | .andBRL _ _ | .orRR _ _ | .orRL _ _ | .orBRR _ _ | .orBRL _ _
  | .notR _ | .notBR _ =>
    [.z, .n]
  | .hlt => [.h]
  | .cli | .sei => [.id]
  | .rsi => [.z, .n, .c, .id]
  | .nop | .movRR _ _ | .movRL _ _ | .movBRR _ _ | .movBRL _ _ | .movIndRR _ _ | .movIndRL _ _ | .movBIndRR _ _
  | .movBIndRL _ _ | .phrR _ | .plrR _ | .jmpR _ | .jmpL _ | .jzR _ | .jzL _ | .jnzR _ | .jnzL _ | .jnR _ | .jnL _
  | .jnnR _ | .jnnL _ | .jcR _ | .jcL _ | .jncR _ | .jncL _ | .jsbL _ | .rsb =>
    []

/-- The next states an instruction can lead to, with the flags that may differ there. -/
inductive Effect (s : State) : List Flag → State → Prop
  | result (w : Width) (d : Reg) (o : Alu) : Effect s [.z, .n, .c] (commit w d o s)
  | resultKeepingCarry (w : Width) (d : Reg) (r : Nat) : Effect s [.z, .n] (commit w d ⟨r, none⟩ s)
  | comparison (w : Width) (o : Alu) : Effect s [.z, .n, .c] (setFlags w o s)
  | nothing : Effect s [] s
  | register (d : Reg) (v : Word) : Effect s [] (s.setReg d v)
  | flag (f : Flag) (b : Bool) : Effect s [f] (s.setFlag f b)
  | storedByte (a : Word) (b : Byte) : Effect s [] (storeByte s a b)
  | storedWord (a v : Word) : Effect s [] (storeWord s a v)
  | pushed (v : Word) : Effect s [] (pushWord s v)
  | called (v target : Word) : Effect s [] ((pushWord s v).setReg Reg.pc target)
  | pulled (d : Reg) : Effect s [] ((pull s).2.setReg d (pull s).1)
  | returned : Effect s [.z, .n, .c, .id] (interruptReturn s)

section
variable {s t : State} {w : Width} {r1 : RegField} {x : Source}

theorem binary_effect {f : Nat → Nat → Alu} (h : binary w f r1 x s = .next t) : Effect s [.z, .n, .c] t := by
  obtain ⟨d, v, -, rfl⟩ := binary_next h
  exact .result w d _

theorem binary_effect_keepingCarry {f : Nat → Nat → Alu} (keeps : ∀ a b, (f a b).carry = none)
    (h : binary w f r1 x s = .next t) : Effect s [.z, .n] t := by
  obtain ⟨d, v, -, rfl⟩ := binary_next h
  have carry := keeps (narrow w (s.reg d)) (narrow w v)
  generalize f (narrow w (s.reg d)) (narrow w v) = o at carry ⊢
  cases o
  cases carry
  exact .resultKeepingCarry w d _

theorem dividing_effect {f : Nat → Nat → Alu} (keeps : ∀ a b, (f a b).carry = none)
    (h : dividing w f r1 x s = .next t) : Effect s [.z, .n] t := by
  obtain ⟨d, v, rfl, nonzero, rfl⟩ := dividing_next h
  exact binary_effect_keepingCarry keeps (binary_of_reads w d f (.lit v))

theorem unary_effect {f : Nat → Alu} (h : unary w f r1 s = .next t) : Effect s [.z, .n, .c] t := by
  obtain ⟨d, -, rfl⟩ := unary_next h
  exact .result w d _

theorem notAlu_effect (h : unary w (notAlu w) r1 s = .next t) : Effect s [.z, .n] t := by
  obtain ⟨d, -, rfl⟩ := unary_next h
  exact .resultKeepingCarry w d _

theorem comparing_effect (h : comparing w r1 x s = .next t) : Effect s [.z, .n, .c] t := by
  obtain ⟨d, v, -, rfl⟩ := comparing_next h
  exact .comparison w _

theorem moving_effect (h : moving w r1 x s = .next t) : Effect s [] t := by
  obtain ⟨d, v, -, rfl⟩ := moving_next h
  exact .register d _

theorem storing_effect (h : storing w r1 x s = .next t) : Effect s [] t := by
  obtain ⟨d, v, -, h⟩ := storing_next h
  rcases memWrite_cases w s (s.reg d) (zext16 (narrow w v)) with ⟨-, -, o⟩ | ⟨-, -, o⟩ | ⟨-, -, o⟩ | ⟨-, -, o⟩ <;>
    rw [o] at h <;> cases h
  · exact .storedByte _ _
  · exact .storedWord _ _

theorem jumping_effect {taken : Bool} (h : jumping taken x s = .next t) : Effect s [] t := by
  rcases jumping_next h with ⟨-, v, rfl⟩ | ⟨-, rfl⟩
  · exact .register Reg.pc v
  · exact .nothing

theorem execPhrR_effect (h : execPhrR r1 s = .next t) : Effect s [] t := by
  obtain ⟨d, -, h⟩ := withReg_next h
  rcases push_cases s (s.reg d) fun t => t with ⟨-, o⟩ | ⟨-, o⟩ <;> rw [o] at h <;> cases h
  exact .pushed _

theorem execJsbL_effect {k : Word} (h : execJsbL k s = .next t) : Effect s [] t := by
  rcases push_cases s (s.reg Reg.pc) fun t => t.setReg Reg.pc k with ⟨-, o⟩ | ⟨-, o⟩ <;>
    rw [execJsbL, o] at h <;> cases h
  exact .called _ k

theorem execPlrR_effect (h : execPlrR r1 s = .next t) : Effect s [] t := by
  obtain ⟨d, -, h⟩ := withReg_next h
  cases h
  exact .pulled d

end

/-- An instruction that completes has had one of the effects, on the flags it may write. -/
theorem exec_effect {i : Instr} {s t : State} (h : exec i s = .next t) : Effect s (flagsWritten i) t := by
  cases i with
  | nop => cases h; exact .nothing
  | hlt => cases h; exact .flag .h true
  | cli => cases h; exact .flag .id false
  | sei => cases h; exact .flag .id true
  | rsb => cases h; exact .pulled Reg.pc
  | rsi => cases h; exact .returned
  | phrR r1 => exact execPhrR_effect h
  | plrR r1 => exact execPlrR_effect h
  | jsbL k => exact execJsbL_effect h
  | movRR r1 r2 | movRL r1 k | movBRR r1 r2 | movBRL r1 k => exact moving_effect h
  | movIndRR r1 r2 | movIndRL r1 k | movBIndRR r1 r2 | movBIndRL r1 k => exact storing_effect h
  | addRR r1 r2 | addRL r1 k | addBRR r1 r2 | addBRL r1 k | subRR r1 r2 | subRL r1 k | subBRR r1 r2 | subBRL r1 k
  | mulRR r1 r2 | mulRL r1 k | mulBRR r1 r2 | mulBRL r1 k | shlRR r1 r2 | shlRL r1 k | shrRR r1 r2 | shrRL r1 k =>
    exact binary_effect h
  | andRR r1 r2 | andRL r1 k | andBRR r1 r2 | andBRL r1 k | orRR r1 r2 | orRL r1 k | orBRR r1 r2 | orBRL r1 k =>
    exact binary_effect_keepingCarry (fun _ _ => rfl) h
  | divRR r1 r2 | divRL r1 k | divBRR r1 r2 | divBRL r1 k | modRR r1 r2 | modRL r1 k | modBRR r1 r2 | modBRL r1 k =>
    exact dividing_effect (fun _ _ => rfl) h
  | incR r1 | incBR r1 | decR r1 | decBR r1 => exact unary_effect h
  | notR r1 | notBR r1 => exact notAlu_effect h
  | cmpRR r1 r2 | cmpRL r1 k | cmpBRR r1 r2 | cmpBRL r1 k => exact comparing_effect h
  | jmpR r1 | jzR r1 | jnzR r1 | jnR r1 | jnnR r1 | jcR r1 | jncR r1 => exact jumping_effect (x := .reg r1) h
  | jmpL k | jzL k | jnzL k | jnL k | jnnL k | jcL k | jncL k => exact jumping_effect (x := .lit k) h

/-! ## The flags (10_state.md R20) -/

/-- Z and N alone are written where an operation gives no carry. -/
theorem keepsFlags_commit_keepingCarry (w : Width) (d : Reg) (r : Nat) (s : State) :
    KeepsFlags s (commit w d ⟨r, none⟩ s) [.z, .n] := by
  intro k _ others
  have not_z : k ≠ 0 := (others .z (by simp)).symm
  have not_n : k ≠ 2 := (others .n (by simp)).symm
  rw [commit_flags, getLsbD_setFlags, if_neg not_z, if_neg not_n]
  by_cases is_c : k = 1 <;> simp [is_c, State.flag, Flag.pos]

/-- A return writes Z, C, N and ID. -/
theorem keepsFlags_interruptReturn (s : State) : KeepsFlags s (interruptReturn s) [.z, .n, .c, .id] := by
  intro k _ others
  have not_restored : ¬k < 4 := by
    simp only [List.forall_mem_cons, Flag.pos] at others
    omega
  rw [getLsbD_interruptReturn_flags, if_neg not_restored]

/-- An effect writes its own flags only. -/
theorem Effect.keepsFlags {s t : State} {fs : List Flag} (h : Effect s fs t) : KeepsFlags s t fs := by
  cases h with
  | result w d o => exact keepsFlags_setFlags w o s
  | resultKeepingCarry w d r => exact keepsFlags_commit_keepingCarry w d r s
  | comparison w o => exact keepsFlags_setFlags w o s
  | flag f b => exact keepsFlags_setFlag s f b
  | returned => exact keepsFlags_interruptReturn s
  | nothing | register | storedByte | storedWord | pushed | called | pulled => exact keepsFlags_of_eq (by simp) []

/-- A flag that changed is among those written. -/
theorem KeepsFlags.mem_of_changed {s t : State} {fs : List Flag} (keeps : KeepsFlags s t fs) {f : Flag}
    (changed : t.flag f ≠ s.flag f) : f ∈ fs := by
  by_contra other
  exact changed (keeps f.pos f.pos_lt fun g mem same => other (Flag.pos_inj.mp same ▸ mem))

/-- The bits of FLAGS that no flag has are always kept. -/
theorem KeepsFlags.reserved {s t : State} {fs : List Flag} (keeps : KeepsFlags s t fs) :
    t.flags.getLsbD 5 = s.flags.getLsbD 5 ∧ t.flags.getLsbD 6 = s.flags.getLsbD 6 :=
  ⟨keeps 5 (by decide) fun f _ => f.pos_not_reserved.1, keeps 6 (by decide) fun f _ => f.pos_not_reserved.2⟩

/-- Settles O51: a flag that changed is in `flagsWritten`, which is R20's index. -/
theorem flagsHaveOnlyTheirWriters : Obligations.FlagsHaveOnlyTheirWriters := by
  intro i s t h
  have keeps : KeepsFlags s t (flagsWritten i) := (exec_effect h).keepsFlags
  obtain ⟨five, six⟩ := keeps.reserved
  refine ⟨?ip, five, six, fun changed => ?h, fun changed => ?id, fun changed => ?zn, fun changed => ?c⟩
  case ip =>
    by_contra changed
    have written := keeps.mem_of_changed changed
    cases i <;> simp [flagsWritten] at written
  case h =>
    have written := keeps.mem_of_changed changed
    cases i <;> simp [flagsWritten] at written ⊢
  case id =>
    have written := keeps.mem_of_changed changed
    cases i <;> simp [flagsWritten] at written ⊢
  case zn =>
    have written : Flag.z ∈ flagsWritten i ∨ Flag.n ∈ flagsWritten i :=
      changed.imp keeps.mem_of_changed keeps.mem_of_changed
    cases i <;> simp [flagsWritten] at written ⊢
  case c =>
    have written := keeps.mem_of_changed changed
    cases i <;> simp [flagsWritten] at written ⊢

/-! ## What everything the machine does preserves -/

/-- What holds from any state to any later one: the memory stays canonical, the ROM and the reserved bits of FLAGS stay as
they are, and the devices' history only grows. -/
structure Preserves (s t : State) : Prop where
  wf : Memory.wf s.mem = true → Memory.wf t.mem = true
  rom : ∀ a, IsRom a → t.stored a = s.stored a
  history : ∃ events, t.devLog = s.devLog ++ events
  reserved : t.flags.getLsbD 5 = s.flags.getLsbD 5 ∧ t.flags.getLsbD 6 = s.flags.getLsbD 6

theorem Preserves.trans {s t u : State} (first : Preserves s t) (second : Preserves t u) : Preserves s u where
  wf h := second.wf (first.wf h)
  rom a rom := (second.rom a rom).trans (first.rom a rom)
  history := by
    obtain ⟨es, hes⟩ := first.history
    obtain ⟨fs, hfs⟩ := second.history
    exact ⟨es ++ fs, by rw [hfs, hes, List.append_assoc]⟩
  reserved := ⟨second.reserved.1.trans first.reserved.1, second.reserved.2.trans first.reserved.2⟩

/-- What touches neither memory nor devices, and only flags that have a name. -/
theorem preserves_of_eq {s t : State} {fs : List Flag} (mem : t.mem = s.mem) (devLog : t.devLog = s.devLog)
    (flags : KeepsFlags s t fs) : Preserves s t where
  wf h := by rw [mem]; exact h
  rom a _ := keepsMemory_of_eq mem a
  history := ⟨[], by rw [devLog, List.append_nil]⟩
  reserved := flags.reserved

theorem Preserves.refl (s : State) : Preserves s s := preserves_of_eq rfl rfl (keepsFlags_of_eq rfl [])

theorem preserves_setReg (s : State) (d : Reg) (v : Word) : Preserves s (s.setReg d v) :=
  preserves_of_eq rfl rfl (keepsFlags_of_eq rfl [])

theorem preserves_setFlag (s : State) (f : Flag) (b : Bool) : Preserves s (s.setFlag f b) :=
  preserves_of_eq rfl rfl (keepsFlags_setFlag s f b)

/-- A byte written is not written to the ROM. -/
theorem preserves_storeByte (s : State) (a : Word) (b : Byte) : Preserves s (storeByte s a b) where
  wf := wf_storeByte s a b
  rom x rom := by
    have apart : ¬(regionOf a = .ram ∧ x = a) := by
      rintro ⟨ram, rfl⟩
      rw [regionOf_eq_ram_iff] at ram
      omega
    rw [stored_storeByte, if_neg apart]
  history := by
    obtain ⟨-, -, log, -⟩ := storesOnly_storeByte s a b
    exact ⟨_, log⟩
  reserved := by simp

theorem preserves_storeWord (s : State) (a v : Word) : Preserves s (storeWord s a v) :=
  (preserves_storeByte s a _).trans (preserves_storeByte _ (a + 1#16) _)

theorem preserves_pushWord (s : State) (v : Word) : Preserves s (pushWord s v) :=
  (preserves_setReg s Reg.sp _).trans (preserves_storeWord _ _ v)

/-- A read is at most an event. -/
theorem preserves_readByte (s : State) (a : Word) : Preserves s (readByte s a).2 where
  wf h := by rw [readByte_mem]; exact h
  rom x _ := keepsMemory_of_eq (readByte_mem s a) x
  history := by
    rw [readByte_devLog]
    split
    · exact ⟨[.read a], rfl⟩
    · exact ⟨[], (List.append_nil _).symm⟩
  reserved := by simp

theorem preserves_readBytes (n : Nat) (a : Word) (s : State) : Preserves s (readBytes n a s).2 := by
  induction n generalizing a s with
  | zero => exact Preserves.refl s
  | succ n ih => exact (preserves_readByte s a).trans (ih (a + 1#16) _)

theorem preserves_pull (s : State) : Preserves s (pull s).2 :=
  ((preserves_readByte s _).trans (preserves_readByte _ _)).trans (preserves_setReg _ Reg.sp _)

/-- A return is two pulls, and then flags with names and a register. -/
theorem preserves_interruptReturn (s : State) : Preserves s (interruptReturn s) where
  wf h := by rw [interruptReturn_mem]; exact h
  rom a _ := keepsMemory_of_eq (interruptReturn_mem s) a
  history := ((preserves_pull s).trans (preserves_pull _)).history
  reserved := (keepsFlags_interruptReturn s).reserved

theorem Effect.preserves {s t : State} {fs : List Flag} (h : Effect s fs t) : Preserves s t := by
  cases h with
  | result | resultKeepingCarry | comparison => exact preserves_of_eq (by simp) (by simp) (keepsFlags_setFlags _ _ s)
  | nothing => exact Preserves.refl s
  | register d v => exact preserves_setReg s d v
  | flag f b => exact preserves_setFlag s f b
  | storedByte a b => exact preserves_storeByte s a b
  | storedWord a v => exact preserves_storeWord s a v
  | pushed v => exact preserves_pushWord s v
  | called v target => exact (preserves_pushWord s v).trans (preserves_setReg _ Reg.pc target)
  | pulled d => exact (preserves_pull s).trans (preserves_setReg _ d _)
  | returned => exact preserves_interruptReturn s

theorem preserves_environmentMoves (s : State) : Preserves s (environmentMoves s) := by
  obtain ⟨-, -, flags, -, devLog, -⟩ := environmentOnlyRequests s
  refine preserves_of_eq ?_ devLog flags
  rcases environmentMoves_cases s with ⟨-, h⟩ | ⟨_, -, h⟩ | ⟨_, -, h⟩ <;> simp [h]

/-- Entry writes flags with names, pushes two words and writes a register. -/
theorem preserves_entered (s : State) : Preserves s (entered s) :=
  ((((preserves_setFlag s .ip false).trans (preserves_pushWord _ _)).trans (preserves_pushWord _ _)).trans
    (preserves_setFlag _ .id true)).trans (preserves_setReg _ Reg.pc _)

/-- What a step leads to. -/
theorem step_preserves {s t : State} (h : step s = .next t) : Preserves s t := by
  have moved := preserves_environmentMoves s
  rcases step_cases s with ⟨-, halted⟩ | ⟨-, -, entry⟩ | ⟨-, -, ⟨e, -, refused⟩ | ⟨f, fetched, runs⟩⟩
  · rw [halted] at h
    cases h
    exact moved
  · rw [entry] at h
    rcases interruptEntry_cases (environmentMoves s) with ⟨-, o⟩ | ⟨-, o⟩ <;> rw [o] at h <;> cases h
    exact moved.trans (preserves_entered _)
  · rw [refused] at h
    cases h
  · rw [runs] at h
    obtain ⟨n, rest, -, state_eq⟩ := fetch_ok fetched
    have read : Preserves (environmentMoves s) f.state := by
      rw [state_eq]
      exact ((preserves_readByte _ _).trans (preserves_readBytes n _ _)).trans (preserves_setReg _ Reg.pc _)
    exact (moved.trans read).trans (exec_effect h).preserves

/-- Settles O46: the two parts of the invariant are two of the things that a step preserves. -/
theorem stepKeepsInvariant : Obligations.StepKeepsInvariant := by
  intro s t ⟨wf, five, six⟩ h
  obtain ⟨keeps_wf, -, -, keeps_five, keeps_six⟩ := step_preserves h
  exact ⟨keeps_wf wf, keeps_five.trans five, keeps_six.trans six⟩

/-- Settles O49: nothing that a step is made of writes below 0x8000. -/
theorem romNeverChanges : Obligations.RomNeverChanges := fun _ _ h => (step_preserves h).rom

/-- Settles O50: each part of a step adds its own events, if any, at the end. -/
theorem devicesKeepTheirHistory : Obligations.DevicesKeepTheirHistory := fun _ _ h => (step_preserves h).history

/-- Settles O47: nothing is listed at reset and no flag is set. -/
theorem resetHasInvariant : Obligations.ResetHasInvariant := ⟨wf_reset, rfl, rfl⟩

/-- Settles O48: by the reset state's fields. -/
theorem resetStartsAtZero : Obligations.ResetStartsAtZero := ⟨rfl, rfl⟩

end Sys2Proof.Machine
end

section
/-! Faults and their causes, and the laws that join two instructions (60_exceptions.md section 1, 42_arithmetic.md section 3,
95_test_vectors.md section 2.10). -/

namespace Sys2Proof.Machine

/-! ## Faults (60_exceptions.md R142) -/

/-- The outcome is no refusal, and of a fault `cause` holds. -/
def CompletesUnless (o : Host.Outcome State Fault Refusal) (cause : Fault → Prop) : Prop :=
  (∀ r, o ≠ .refused r) ∧ ∀ f, o = .fault f → cause f

theorem completesUnless_next (t : State) (cause : Fault → Prop) : CompletesUnless (.next t) cause :=
  ⟨fun _ h => (by cases h), fun _ h => (by cases h)⟩

theorem completesUnless_fault {f : Fault} {cause : Fault → Prop} (h : cause f) : CompletesUnless (.fault f) cause :=
  ⟨fun _ h => (by cases h), fun _ faults => (by cases faults; exact h)⟩

/-- A field that names a register is that register's own. -/
theorem exists_field_of_names {f : RegField} (h : RegField.Names f) : ∃ r : Reg, f = r.field :=
  ⟨⟨f.toNat, h⟩, by simp [Reg.field]⟩

/-- The arguments of a form with two, the second read as `x`. -/
def argsWith (r1 : RegField) : Source → Args
  | .reg r2 => .regReg r1 r2
  | .lit k => .regLit r1 k

/-- Legal arguments have a register and a value. -/
theorem exists_of_wellFormed {r1 : RegField} {x : Source} (s : State) (legal : (argsWith r1 x).wellFormed = true) :
    ∃ (d : Reg) (v : Word), r1 = d.field ∧ x.Reads s v := by
  cases x with
  | reg r2 =>
    obtain ⟨names1, names2⟩ : RegField.Names r1 ∧ RegField.Names r2 := by
      simpa [argsWith, Args.wellFormed] using legal
    obtain ⟨d, rfl⟩ := exists_field_of_names names1
    obtain ⟨e, rfl⟩ := exists_field_of_names names2
    exact ⟨d, s.reg e, rfl, .reg e⟩
  | lit k =>
    obtain ⟨d, rfl⟩ := exists_field_of_names (of_decide_eq_true legal)
    exact ⟨d, k, rfl, .lit k⟩

section
variable {s : State} {w : Width} {r1 : RegField} {x : Source} {cause : Fault → Prop}

theorem binary_completesUnless {f : Nat → Nat → Alu} (legal : (argsWith r1 x).wellFormed = true) :
    CompletesUnless (binary w f r1 x s) cause := by
  obtain ⟨d, v, rfl, reads⟩ := exists_of_wellFormed s legal
  rw [binary_of_reads w d f reads]
  exact completesUnless_next _ cause

theorem comparing_completesUnless (legal : (argsWith r1 x).wellFormed = true) :
    CompletesUnless (comparing w r1 x s) cause := by
  obtain ⟨d, v, rfl, reads⟩ := exists_of_wellFormed s legal
  rw [comparing_of_reads w d reads]
  exact completesUnless_next _ cause

theorem moving_completesUnless (legal : (argsWith r1 x).wellFormed = true) :
    CompletesUnless (moving w r1 x s) cause := by
  obtain ⟨d, v, rfl, reads⟩ := exists_of_wellFormed s legal
  rw [moving_of_reads w d reads]
  exact completesUnless_next _ cause

/-- A division faults on a divisor of 0 only. -/
theorem dividing_completesUnless {f : Nat → Nat → Alu} (legal : (argsWith r1 x).wellFormed = true)
    (zero_divisor : ∀ v, x.Reads s v → narrow w v = 0 → cause .divideByZero) :
    CompletesUnless (dividing w f r1 x s) cause := by
  obtain ⟨d, v, rfl, reads⟩ := exists_of_wellFormed s legal
  by_cases zero : narrow w v = 0
  · rw [dividing_by_zero w d f reads zero]
    exact completesUnless_fault (zero_divisor v reads zero)
  · rw [dividing_of_reads w d f reads zero]
    exact completesUnless_next _ cause

/-- A word store faults where a byte of it is in ROM only. -/
theorem storing_word_completesUnless (legal : (argsWith r1 x).wellFormed = true)
    (rom : ∀ d : Reg, r1 = d.field → IsRom (s.reg d) ∨ IsRom (s.reg d + 1#16) → cause .romWrite) :
    CompletesUnless (storing .word r1 x s) cause := by
  obtain ⟨d, v, rfl, reads⟩ := exists_of_wellFormed s legal
  rw [storing_of_reads .word d reads]
  by_cases in_rom : IsRom (s.reg d) ∨ IsRom (s.reg d + 1#16)
  · rw [memWrite_word_fault _ in_rom]
    exact completesUnless_fault (rom d rfl in_rom)
  · obtain ⟨first, second⟩ := not_or.mp in_rom
    rw [memWrite_word_next _ first second]
    exact completesUnless_next _ cause

/-- A byte store faults where its byte is in ROM only. -/
theorem storing_byte_completesUnless (legal : (argsWith r1 x).wellFormed = true)
    (rom : ∀ d : Reg, r1 = d.field → IsRom (s.reg d) → cause .romWrite) :
    CompletesUnless (storing .byte r1 x s) cause := by
  obtain ⟨d, v, rfl, reads⟩ := exists_of_wellFormed s legal
  rw [storing_of_reads .byte d reads]
  by_cases in_rom : IsRom (s.reg d)
  · rw [memWrite_byte_fault _ in_rom]
    exact completesUnless_fault (rom d rfl in_rom)
  · rw [memWrite_byte_next _ in_rom]
    exact completesUnless_next _ cause

theorem unary_completesUnless {f : Nat → Alu} (legal : (Args.reg r1).wellFormed = true) :
    CompletesUnless (unary w f r1 s) cause := by
  obtain ⟨d, rfl⟩ := exists_field_of_names (of_decide_eq_true legal)
  rw [unary_field]
  exact completesUnless_next _ cause

/-- A push faults where a byte of the new top of the stack is in ROM only. -/
theorem push_completesUnless {v : Word} {k : State → State}
    (rom : IsRom (s.reg Reg.sp - 2#16) ∨ IsRom (s.reg Reg.sp - 1#16) → cause .romWrite) :
    CompletesUnless (push s v k) cause := by
  by_cases in_rom : IsRom (s.reg Reg.sp - 2#16) ∨ IsRom (s.reg Reg.sp - 1#16)
  · rw [push_fault v k in_rom]
    exact completesUnless_fault (rom in_rom)
  · obtain ⟨lower, upper⟩ := not_or.mp in_rom
    rw [push_next v k lower upper]
    exact completesUnless_next _ cause

theorem jumping_completesUnless {taken : Bool} {v : Word} (reads : x.Reads s v) :
    CompletesUnless (jumping taken x s) cause := by
  rw [jumping_of_reads taken reads]
  exact completesUnless_next _ cause

theorem jumping_reg_completesUnless {taken : Bool} (legal : (Args.reg r1).wellFormed = true) :
    CompletesUnless (jumping taken (.reg r1) s) cause := by
  obtain ⟨r, rfl⟩ := exists_field_of_names (of_decide_eq_true legal)
  exact jumping_completesUnless (.reg r)

end

/-- Settles O52: each form completes but for its own check, division's on the divisor or a write's on the ROM. -/
theorem faultsHaveTheirCauses : Obligations.FaultsHaveTheirCauses := by
  intro i s legal
  change CompletesUnless (exec i s) _
  cases i with
  | nop | hlt | rsb | cli | sei | rsi => exact completesUnless_next _ _
  | movRR r1 r2 | movBRR r1 r2 => exact moving_completesUnless (x := .reg r2) legal
  | movRL r1 k | movBRL r1 k => exact moving_completesUnless (x := .lit k) legal
  | addRR r1 r2 | addBRR r1 r2 | subRR r1 r2 | subBRR r1 r2 | mulRR r1 r2 | mulBRR r1 r2 | andRR r1 r2 | andBRR r1 r2
  | orRR r1 r2 | orBRR r1 r2 | shlRR r1 r2 | shrRR r1 r2 => exact binary_completesUnless (x := .reg r2) legal
  | addRL r1 k | addBRL r1 k | subRL r1 k | subBRL r1 k | mulRL r1 k | mulBRL r1 k | andRL r1 k | andBRL r1 k
  | orRL r1 k | orBRL r1 k | shlRL r1 k | shrRL r1 k => exact binary_completesUnless (x := .lit k) legal
  | incR r1 | incBR r1 | decR r1 | decBR r1 | notR r1 | notBR r1 => exact unary_completesUnless legal
  | cmpRR r1 r2 | cmpBRR r1 r2 => exact comparing_completesUnless (x := .reg r2) legal
  | cmpRL r1 k | cmpBRL r1 k => exact comparing_completesUnless (x := .lit k) legal
  | jmpR r1 | jzR r1 | jnzR r1 | jnR r1 | jnnR r1 | jcR r1 | jncR r1 => exact jumping_reg_completesUnless legal
  | jmpL k | jzL k | jnzL k | jnL k | jnnL k | jcL k | jncL k => exact jumping_completesUnless (.lit k)
  | plrR r1 =>
    obtain ⟨d, rfl⟩ := exists_field_of_names (of_decide_eq_true legal)
    rw [exec_plrR_field]
    exact completesUnless_next _ _
  | phrR r1 =>
    obtain ⟨r, rfl⟩ := exists_field_of_names (of_decide_eq_true legal)
    rw [exec_phrR_field]
    exact push_completesUnless fun rom => .inr ⟨rfl, rom⟩
  | jsbL k =>
    rw [exec_jsbL]
    exact push_completesUnless fun rom => .inr ⟨rfl, rom⟩
  | movIndRR r1 r2 => exact storing_word_completesUnless (x := .reg r2) legal fun d eq rom => .inr ⟨rfl, d, eq, rom⟩
  | movIndRL r1 k => exact storing_word_completesUnless (x := .lit k) legal fun d eq rom => .inr ⟨rfl, d, eq, rom⟩
  | movBIndRR r1 r2 => exact storing_byte_completesUnless (x := .reg r2) legal fun d eq rom => .inr ⟨rfl, d, eq, rom⟩
  | movBIndRL r1 k => exact storing_byte_completesUnless (x := .lit k) legal fun d eq rom => .inr ⟨rfl, d, eq, rom⟩
  | divRR r1 r2 | modRR r1 r2 =>
    refine dividing_completesUnless (x := .reg r2) legal fun v reads zero => .inl ⟨rfl, ?_⟩
    cases reads with
    | reg e => exact ⟨e, rfl, by rwa [narrow_word] at zero⟩
  | divBRR r1 r2 | modBRR r1 r2 =>
    refine dividing_completesUnless (x := .reg r2) legal fun v reads zero => .inl ⟨rfl, ?_⟩
    cases reads with
    | reg e => exact ⟨e, rfl, zero⟩
  | divRL r1 k | modRL r1 k =>
    refine dividing_completesUnless (x := .lit k) legal fun v reads zero => .inl ⟨rfl, ?_⟩
    cases reads with
    | lit => rwa [narrow_word] at zero
  | divBRL r1 k | modBRL r1 k =>
    refine dividing_completesUnless (x := .lit k) legal fun v reads zero => .inl ⟨rfl, ?_⟩
    cases reads with
    | lit => exact zero

/-- Settles O53: a step runs a decoded, hence well-formed, instruction, or else ends in a state or a fault. -/
theorem stepIsNeverRefused : Obligations.StepIsNeverRefused := by
  intro s r refused
  rcases step_cases s with ⟨-, halted⟩ | ⟨-, -, entry⟩ | ⟨-, -, ⟨e, -, illegal⟩ | ⟨f, fetched, runs⟩⟩
  · rw [halted] at refused
    cases refused
  · rw [entry] at refused
    rcases interruptEntry_cases (environmentMoves s) with ⟨-, o⟩ | ⟨-, o⟩ <;> rw [o] at refused <;> cases refused
  · rw [illegal] at refused
    cases refused
  · obtain ⟨n, rest, decodes, -⟩ := fetch_ok fetched
    obtain ⟨legal, -⟩ := encodeInvertsDecode _ _ _ decodes
    obtain ⟨never, -⟩ := faultsHaveTheirCauses f.instr f.state legal
    exact never r (runs ▸ refused)

/-! ## Laws of arithmetic (42_arithmetic.md section 3, 95_test_vectors.md section 2.10) -/

/-- Taking back what was added, modulo 2^16. -/
theorem sub_of_add_mod (a b : Word) :
    BitVec.ofNat 16 ((65536 + (a.toNat + b.toNat) % 65536 - b.toNat) % 65536) = a := by
  have a_lt := a.isLt
  have b_lt := b.isLt
  refine BitVec.eq_of_toNat_eq ?_
  rw [BitVec.toNat_ofNat]
  omega

/-- Settles O54: ADD and SUB write `d` alone, and neither `e` nor the PC is `d`. -/
theorem addThenSubRestores : Obligations.AddThenSubRestores := by
  intro s d e d_ne_e d_ne_pc e_ne_pc
  obtain ⟨⟨t, added, sum, -, -, -, add_keeps, -⟩, -⟩ := addComputes s d e 0
  obtain ⟨⟨u, subtracted, difference, -, -, borrow, sub_keeps, -⟩, -⟩ :=
    subComputes (advancePc t (t.reg Reg.pc) 3) d e 0
  have advanced (r : Reg) (ne : r ≠ Reg.pc) : (advancePc t (t.reg Reg.pc) 3).reg r = t.reg r :=
    reg_setReg_of_ne t _ ne
  have added_other (r : Reg) (ne : r ≠ d) : t.reg r = s.reg r := add_keeps r (by simpa using ne)
  have subtracted_other (r : Reg) (ne : r ≠ d) : u.reg r = (advancePc t (t.reg Reg.pc) 3).reg r :=
    sub_keeps r (by simpa using ne)
  rw [advanced d d_ne_pc, advanced e e_ne_pc, added_other e d_ne_e.symm] at difference borrow
  refine ⟨t, added, u, subtracted, fun r not_pc => ?regs, ?pc, borrow⟩
  case regs =>
    have ne_pc : r ≠ Reg.pc := List.ne_of_not_mem_cons not_pc
    by_cases is_d : r = d
    · rw [is_d, difference, sum, BitVec.toNat_ofNat, Nat.mod_mod, sub_of_add_mod]
    · rw [subtracted_other r is_d, advanced r ne_pc, added_other r is_d]
  case pc =>
    rw [subtracted_other Reg.pc d_ne_pc.symm, advancePc, reg_setReg_self, added_other Reg.pc d_ne_pc.symm]

/-- Settles O55: the quotient and the remainder fit a register, and they are those of the naturals. -/
theorem divAndModRecoverDividend : Obligations.DivAndModRecoverDividend := by
  intro s d e nonzero
  obtain ⟨q, divided, quotient, -, -, div_c, -⟩ := (divComputes s d e 0).1 nonzero
  obtain ⟨m, reduced, remainder, -, -, mod_c, -⟩ := (modComputes s d e 0).1 nonzero
  have in_range := (s.reg d).isLt
  have quotient_lt : (s.reg d).toNat / (s.reg e).toNat < 2 ^ 16 := Nat.lt_of_le_of_lt (Nat.div_le_self _ _) in_range
  have remainder_lt : (s.reg d).toNat % (s.reg e).toNat < 2 ^ 16 := Nat.lt_of_le_of_lt (Nat.mod_le _ _) in_range
  refine ⟨q, divided, m, reduced, ?_, ?_, div_c, mod_c⟩
  · rw [quotient, remainder, BitVec.toNat_ofNat, BitVec.toNat_ofNat, Nat.mod_eq_of_lt quotient_lt,
      Nat.mod_eq_of_lt remainder_lt, Nat.mul_comm, Nat.div_add_mod]
  · rw [remainder, BitVec.toNat_ofNat, Nat.mod_eq_of_lt remainder_lt]
    exact Nat.mod_lt _ (Nat.pos_of_ne_zero nonzero)

/-- Settles O56: both results are the value times 2^n modulo 2^16. -/
theorem shlAgreesWithMulByPower : Obligations.ShlAgreesWithMulByPower := by
  intro s d n _ small
  obtain ⟨-, t, shifted, shl_value, shl_z, shl_n, -, shl_keeps, -⟩ := shlComputes s d 0 (BitVec.ofNat 16 n)
  obtain ⟨-, ⟨u, multiplied, mul_value, mul_z, mul_n, -, mul_keeps, -⟩, -⟩ :=
    mulComputes s d 0 (BitVec.ofNat 16 (2 ^ n))
  have count_eq : (BitVec.ofNat 16 n).toNat = n := by
    rw [BitVec.toNat_ofNat, Nat.mod_eq_of_lt (Nat.lt_trans small (by decide))]
  have factor_eq : (BitVec.ofNat 16 (2 ^ n)).toNat = 2 ^ n := by
    rw [BitVec.toNat_ofNat, Nat.mod_eq_of_lt (Nat.pow_lt_pow_right (by decide) small)]
  simp only [count_eq, if_pos (Nat.le_of_lt small : n ≤ 16)] at shl_value shl_z shl_n
  rw [factor_eq] at mul_value mul_z mul_n
  refine ⟨t, shifted, u, multiplied, fun r _ => ?_, mul_z.trans shl_z.symm, mul_n.trans shl_n.symm⟩
  by_cases is_d : r = d
  · rw [is_d, mul_value, shl_value]
  · rw [mul_keeps r (by simpa using is_d), shl_keeps r (by simpa using is_d)]

/-! ## Laws of the stack, where it is RAM (41_data_transfer.md section 2, 45_control_flow.md section 2) -/

/-- The bytes of a write are all RAM. -/
def InRam (bytes : List (Word × Byte)) : Prop := ∀ p ∈ bytes, IsRam p.1

/-- Bytes written to RAM are nothing to the devices. -/
theorem writeEvents_of_ram {bytes : List (Word × Byte)} (ram : InRam bytes) : writeEvents bytes = [] := by
  induction bytes with
  | nil => rfl
  | cons p bytes ih =>
    obtain ⟨first, others⟩ := List.forall_mem_cons.mp ram
    have not_device : ¬IsDevice p.1 := by omega
    rw [writeEvents, if_neg not_device, ih others]

/-- Bytes written to RAM leave the devices and the schedule alone. -/
theorem StoresOnly.keepsOutside {s t : State} {bytes : List (Word × Byte)} (h : StoresOnly s t bytes)
    (ram : InRam bytes) : KeepsOutside s t := by
  obtain ⟨-, -, log, requests⟩ := h
  rw [writeEvents_of_ram ram, List.append_nil] at log
  exact ⟨log, requests⟩

/-- A word of two bytes that were written to RAM reads as they were written. -/
theorem StoresOnly.wordSeen_eq {s t : State} {bytes : List (Word × Byte)} (h : StoresOnly s t bytes)
    (log : List DevEvent) {a b : Word} {hi lo : Byte} (next : a + 1#16 = b) (high : (a, hi) ∈ bytes)
    (low : (b, lo) ∈ bytes) (ram : InRam bytes) : wordSeen t log a = hi ++ lo := by
  obtain ⟨stored, -⟩ := h
  have not_device {x : Word} (is_ram : IsRam x) : ¬IsDevice x := by omega
  rw [wordSeen, next, byteSeen, byteSeen, if_neg (not_device (ram _ high)), if_neg (not_device (ram _ low)),
    stored _ high (ram _ high), stored _ low (ram _ low)]

/-- A word of RAM read is nothing to the devices. -/
theorem logAfterWord_of_ram (log : List DevEvent) {a b : Word} (next : a + 1#16 = b) (first : IsRam a)
    (second : IsRam b) : logAfterWord log a = log := by
  have not_device {x : Word} (is_ram : IsRam x) : ¬IsDevice x := by omega
  rw [logAfterWord, next, logAfter, logAfter, if_neg (not_device first), if_neg (not_device second)]

/-- The two halves of a word, joined, are the word. -/
theorem halves_append (v : Word) : v.extractLsb' 8 8 ++ v.extractLsb' 0 8 = v := litOfBytes_halves v

/-- What is RAM is not ROM. -/
theorem not_isRom_of_isRam {a : Word} (h : IsRam a) : ¬IsRom a := by omega

/-- A word pushed to a stack in RAM: it is on top, and the devices have seen nothing of it and see
nothing of its pull. -/
theorem pushed_in_ram {o : Host.Outcome State Fault Refusal} {s : State} {v : Word} {others : List Reg}
    {P : State → Prop} (pushed : CompletesPushing o s v others P) (lower : IsRam (s.reg Reg.sp - 2#16))
    (upper : IsRam (s.reg Reg.sp - 1#16)) :
    Completes o fun t => P t ∧ t.reg Reg.sp = s.reg Reg.sp - 2#16 ∧ KeepsRegs s t (Reg.sp :: others) ∧
      KeepsFlags s t [] ∧ KeepsOutside s t ∧ wordSeen t t.devLog (t.reg Reg.sp) = v ∧
      logAfterWord t.devLog (t.reg Reg.sp) = t.devLog := by
  obtain ⟨t, outcome, holds, sp, regs, flags, stores⟩ := pushed
  have next := sub_two_add_one (s.reg Reg.sp)
  have ram : InRam [(s.reg Reg.sp - 2#16, v.extractLsb' 8 8), (s.reg Reg.sp - 1#16, v.extractLsb' 0 8)] := by
    simp only [InRam, List.forall_mem_cons]
    exact ⟨lower, upper, fun _ h => absurd h List.not_mem_nil⟩
  refine ⟨t, outcome, holds, sp, regs, flags, stores.keepsOutside ram, ?word, ?log⟩
  case word =>
    rw [sp, stores.wordSeen_eq _ next (hi := v.extractLsb' 8 8) (lo := v.extractLsb' 0 8) (by simp) (by simp) ram,
      halves_append]
  case log => rw [sp, logAfterWord_of_ram _ next lower upper]

theorem KeepsFlags.trans {s t u : State} {fs : List Flag} (first : KeepsFlags s t fs) (second : KeepsFlags t u fs) :
    KeepsFlags s u fs :=
  fun k in_byte others => (second k in_byte others).trans (first k in_byte others)

/-- Settles O57: the word pulled is the word on top, and SP is back where it was. -/
theorem phrThenPlrCopies : Obligations.PhrThenPlrCopies := by
  intro s r d _ d_ne_sp lower upper
  obtain ⟨t, pushed, -, sp, push_regs, push_flags, ⟨push_log, push_requests⟩, top, unseen⟩ :=
    pushed_in_ram (phrPushesRegister s r (not_isRom_of_isRam lower) (not_isRom_of_isRam upper)) lower upper
  obtain ⟨u, pulled, value, pull_sp, pull_regs, pull_flags, -, pull_log, pull_requests⟩ := plrPullsRegister t d
  refine ⟨t, pushed, u, pulled, value.trans top, fun q not_d => ?regs, push_flags.trans pull_flags, ?log,
    pull_requests.trans push_requests⟩
  case regs =>
    have ne_d : q ≠ d := List.ne_of_not_mem_cons not_d
    by_cases is_sp : q = Reg.sp
    · rw [is_sp, pull_sp d_ne_sp, sp, BitVec.sub_add_cancel]
    · rw [pull_regs q (by simp [ne_d, is_sp]), push_regs q (by simp [is_sp])]
  case log => rw [pull_log, unseen, push_log]

/-- Settles O58: the word pulled is the PC that the JSB saw, and SP is back where it was. -/
theorem rsbReturnsFromJsb : Obligations.RsbReturnsFromJsb := by
  intro s k lower upper
  obtain ⟨t, pushed, -, sp, push_regs, push_flags, ⟨push_log, push_requests⟩, top, unseen⟩ :=
    pushed_in_ram (jsbPushesAndJumps s k (not_isRom_of_isRam lower) (not_isRom_of_isRam upper)) lower upper
  obtain ⟨u, pulled, value, pull_sp, pull_regs, pull_flags, -, pull_log, pull_requests⟩ := rsbPullsPc t
  refine ⟨t, pushed, u, pulled, fun q _ => ?regs, push_flags.trans pull_flags, ?log,
    pull_requests.trans push_requests⟩
  case regs =>
    by_cases is_pc : q = Reg.pc
    · rw [is_pc, value, top]
    by_cases is_sp : q = Reg.sp
    · rw [is_sp, pull_sp, sp, BitVec.sub_add_cancel]
    · rw [pull_regs q (by simp [is_pc, is_sp]), push_regs q (by simp [is_pc, is_sp])]
  case log => rw [pull_log, unseen, push_log]

/-- Entry on a stack in RAM leaves FLAGS and the PC there for a return to read, and the devices see nothing of it. -/
theorem wordSeen_entered {s : State} (one : IsRam (s.reg Reg.sp - 1#16)) (two : IsRam (s.reg Reg.sp - 2#16))
    (three : IsRam (s.reg Reg.sp - 3#16)) (four : IsRam (s.reg Reg.sp - 4#16)) :
    (∀ log, wordSeen (entered s) log (s.reg Reg.sp - 4#16) = 0#8 ++ (s.setFlag .ip false).flags) ∧
    (∀ log, wordSeen (entered s) log (s.reg Reg.sp - 2#16) = s.reg Reg.pc) ∧ KeepsOutside s (entered s) := by
  have stores := storesOnly_entered s
  have ram : InRam [(s.reg Reg.sp - 2#16, hiByte (s.reg Reg.pc)), (s.reg Reg.sp - 1#16, loByte (s.reg Reg.pc)),
      (s.reg Reg.sp - 4#16, 0#8), (s.reg Reg.sp - 3#16, (s.setFlag .ip false).flags)] := by
    simp only [InRam, List.forall_mem_cons]
    exact ⟨two, one, four, three, fun _ h => absurd h List.not_mem_nil⟩
  refine ⟨fun log => ?flags, fun log => ?pc, stores.keepsOutside ram⟩
  case flags => exact stores.wordSeen_eq log (sub_four_add_one _) (by simp) (by simp) ram
  case pc =>
    rw [stores.wordSeen_eq log (sub_two_add_one _) (hi := hiByte (s.reg Reg.pc)) (lo := loByte (s.reg Reg.pc))
      (by simp) (by simp) ram]
    exact halves_append (s.reg Reg.pc)

/-- Settles O59: the return reads back the two words that entry saved, FLAGS among them as they were before ID
was set. -/
theorem rsiUndoesInterruptEntry : Obligations.RsiUndoesInterruptEntry := by
  intro s _ one two three four
  have entry := interruptEntry_next (not_isRom_of_isRam one) (not_isRom_of_isRam two) (not_isRom_of_isRam three)
    (not_isRom_of_isRam four)
  obtain ⟨flags_word, pc_word, entry_log, entry_requests⟩ := wordSeen_entered one two three four
  have sp := reg_sp_entered s
  have second_word : s.reg Reg.sp - 4#16 + 2#16 = s.reg Reg.sp - 2#16 := by bv_omega
  have bits (k : Nat) (in_byte : k < 8) : (interruptReturn (entered s)).flags.getLsbD k =
      if k = Flag.ip.pos then false else s.flags.getLsbD k := by
    rw [getLsbD_interruptReturn_flags, sp, flags_word, BitVec.getLsbD_append, if_pos in_byte, getLsbD_setFlag,
      getLsbD_entered_flags]
    simp only [Flag.pos]
    interval_cases k <;> simp
  refine ⟨entered s, entry, interruptReturn (entered s), rfl, fun q _ => ?regs, bits Flag.ip.pos (by decide),
    fun k in_byte others => ?flags, ?log, ?requests⟩
  case regs =>
    by_cases is_pc : q = Reg.pc
    · rw [is_pc, reg_pc_interruptReturn, sp, second_word, pc_word]
    by_cases is_sp : q = Reg.sp
    · rw [is_sp, reg_sp_interruptReturn, sp, BitVec.sub_add_cancel]
    · rw [keepsRegs_interruptReturn _ q (by simp [is_pc, is_sp]), keepsRegs_entered s q (by simp [is_pc, is_sp])]
  case flags => rw [bits k in_byte, if_neg (others .ip (by simp)).symm]
  case log =>
    rw [interruptReturn_devLog, sp, second_word, logAfterWord_of_ram _ (sub_four_add_one _) four three,
      logAfterWord_of_ram _ (sub_two_add_one _) two one, entry_log]
  case requests => rw [interruptReturn_requests, entry_requests]

end Sys2Proof.Machine
end
